-- ==== Sys2Proof/Word.lean ====
section
/-! DEFINITION. The word types of the block: bytes, the 32-bit interface words, the 64-bit Port words. -/

namespace Sys2Proof

/-- One byte of buffer or card memory (`20_memory.md` R90). -/
abbrev Byte := BitVec 8

/-- A request-interface word, a wire-command argument, an R1 status (`10_state.md` R58, R72). -/
abbrev Word := BitVec 32

/-- What one Port register access moves (`20_memory.md` R105). -/
abbrev PortWord := BitVec 64

/-- The secondary status register STS2 (`10_state.md` R66). -/
abbrev Sts2 := BitVec 16

/-- A CID or CSD image (`10_state.md` R39). -/
abbrev Image := BitVec 128

end Sys2Proof
end

