-- ==== Sys2Proof/Config.lean ====
section
/-! DEFINITION. What an implementation fixes (`00_scope.md` R9–R22, `30_encoding.md` R133), as plain data that
State carries, and the free values: constants with no body, for every answer the spec calls a draw (R24, R70). -/

namespace Sys2Proof

/-- The command indices of R132, card-protocol parameters (R22, K14). An application-specific command has an index of its
own list: the preceding CMD55 tells the two lists apart (R131). -/
structure Indices where
  cmd0 : BitVec 6
  cmd1 : BitVec 6
  cmd2 : BitVec 6
  /-- Both rows of CMD3. -/
  cmd3 : BitVec 6
  cmd4 : BitVec 6
  cmd7 : BitVec 6
  cmd8 : BitVec 6
  cmd9 : BitVec 6
  cmd12 : BitVec 6
  cmd13 : BitVec 6
  cmd16 : BitVec 6
  cmd17 : BitVec 6
  cmd18 : BitVec 6
  cmd24 : BitVec 6
  cmd25 : BitVec 6
  cmd55 : BitVec 6
  acmd6 : BitVec 6
  acmd13 : BitVec 6
  acmd22 : BitVec 6
  acmd41 : BitVec 6
  acmd42 : BitVec 6
  acmd51 : BitVec 6
deriving DecidableEq, Repr

/-- The indices of the plain commands. -/
def Indices.plain (t : Indices) : List (BitVec 6) :=
  [t.cmd0, t.cmd1, t.cmd2, t.cmd3, t.cmd4, t.cmd7, t.cmd8, t.cmd9, t.cmd12, t.cmd13, t.cmd16, t.cmd17, t.cmd18, t.cmd24,
    t.cmd25, t.cmd55]

/-- The indices of the application-specific commands. -/
def Indices.announced (t : Indices) : List (BitVec 6) := [t.acmd6, t.acmd13, t.acmd22, t.acmd41, t.acmd42, t.acmd51]

/-- No two commands of a list share an index: the frame tells them apart. -/
def Indices.wf (t : Indices) : Bool := decide t.plain.Nodup && decide t.announced.Nodup

/-- The values of R132. -/
def Indices.reference : Indices where
  cmd0 := 0#6
  cmd1 := 1#6
  cmd2 := 2#6
  cmd3 := 3#6
  cmd4 := 4#6
  cmd7 := 7#6
  cmd8 := 8#6
  cmd9 := 9#6
  cmd12 := 12#6
  cmd13 := 13#6
  cmd16 := 16#6
  cmd17 := 17#6
  cmd18 := 18#6
  cmd24 := 24#6
  cmd25 := 25#6
  cmd55 := 55#6
  acmd6 := 6#6
  acmd13 := 13#6
  acmd22 := 22#6
  acmd41 := 41#6
  acmd42 := 42#6
  acmd51 := 51#6

/-- The positions of the R1 status fields (R65, R140; R22, K10, K17). CARD_IS_LOCKED is the bit of `cardLocked` (R191). -/
structure R1Positions where
  outOfRange : Nat
  addressError : Nat
  blockLengthError : Nat
  eraseError : Nat
  writeProtectViolation : Nat
  cardLocked : Nat
  crc : Nat
  illegalCommand : Nat
  eccFailed : Nat
  controllerInternalError : Nat
  cardInternalError : Nat
  authenticationSequenceError : Nat
  /-- The lowest bit of CURRENT_STATE. -/
  currentState : Nat
deriving DecidableEq, Repr

/-- The positions of the STS2 bits (R66, R69, R145; R22, K11). -/
structure Sts2Positions where
  illegalAccess : Nat
  responseTimeout : Nat
  bufferUnderrun : Nat
  bufferOverrun : Nat
  dataTimeout : Nat
  endBitError : Nat
  crcError : Nat
  commandError : Nat
  /-- CBSY. -/
  commandBusy : Nat
  /-- SCLKDIVEN. -/
  clockDividerOn : Nat
deriving DecidableEq, Repr

/-- The positions of the register fields the engine reads (R59–R66), card-protocol parameters (R22, K3–K11): each names
the lowest bit of its field, whose width is the rule's. -/
structure Positions where
  /-- OCR ready (R59). -/
  ocrReady : Nat
  /-- CSD (R60). -/
  csdStructure : Nat
  readBlLen : Nat
  dsrImp : Nat
  cSizeV1 : Nat
  cSizeMult : Nat
  cSizeV2 : Nat
  sectorSize : Nat
  eraseGrpSize : Nat
  eraseGrpMult : Nat
  permWriteProtect : Nat
  tmpWriteProtect : Nat
  /-- SCR (R61). -/
  sdSpec : Nat
  sdSpec3 : Nat
  fourBitBus : Nat
  /-- SD status (R62). -/
  protectedArea : Nat
  speedClass : Nat
  auSize : Nat
  /-- The published address of an R6 (R63). -/
  r6Rca : Nat
  /-- The voltage field and the echo of an R7 (R64). -/
  r7Voltage : Nat
  r7Echo : Nat
  r1 : R1Positions
  sts2 : Sts2Positions
deriving DecidableEq, Repr

/-- The values of R59–R66 and R140. ERASE_GRP_SIZE and ERASE_GRP_MULT are those of R263 and K5. -/
def Positions.reference : Positions where
  ocrReady := 31
  csdStructure := 126
  readBlLen := 80
  dsrImp := 76
  cSizeV1 := 62
  cSizeMult := 47
  cSizeV2 := 48
  sectorSize := 39
  eraseGrpSize := 42
  eraseGrpMult := 37
  permWriteProtect := 13
  tmpWriteProtect := 12
  sdSpec := 56
  sdSpec3 := 47
  fourBitBus := 50
  protectedArea := 448
  speedClass := 440
  auSize := 428
  r6Rca := 16
  r7Voltage := 8
  r7Echo := 0
  r1 := ⟨31, 30, 29, 28, 26, 25, 23, 22, 21, 20, 19, 3, 9⟩
  sts2 := ⟨15, 6, 5, 4, 3, 2, 1, 0, 14, 13⟩

/-- The parameters of the block. An OPEN parameter is an argument of the model: State carries this record, so a
statement about every state is a statement about every configuration. SECTOR_BYTES is no field: it is 512 throughout, "the
fixed 512-byte block length" (R10; DESIGN CHOICE, unsafe, notes/assumptions/34.md). -/
structure Config where
  /-- R9: number of channels. -/
  nChannels : Nat
  /-- R9: the index of this channel. -/
  channel : Nat
  /-- R32: the opaque Port handle of this channel. -/
  portHandle : Nat
  /-- R11: CHUNK_LIMIT, legal 3..32767. -/
  chunkLimit : Nat
  /-- R12: RESET_ATTEMPTS. -/
  resetAttempts : Nat
  /-- R13: OCR_POLL_LIMIT. -/
  ocrPollLimit : Nat
  /-- R13: OCR_POLL_WAIT, a duration without effect in an untimed model (D50). -/
  ocrPollWait : Nat
  /-- R14: RCA_ATTEMPTS. -/
  rcaAttempts : Nat
  /-- R15: BUSY_SPIN_LIMIT. -/
  busySpinLimit : Nat
  /-- R16: DMA_CAPABLE. -/
  dmaCapable : Bool
  /-- R17: DMA_ALIGN, a power of two. -/
  dmaAlign : Nat
  /-- R19: HOST_4BIT. -/
  host4Bit : Bool
  /-- R20: CARD_DETECT_SUPPORTED. -/
  cardDetectSupported : Bool
  /-- R20: WRITE_PROTECT_SUPPORTED. -/
  writeProtectSupported : Bool
  /-- R21: T_CMD. -/
  tCmd : Nat
  /-- R21: T_ERASE. -/
  tErase : Nat
  /-- R21: T_DATA. -/
  tData : Nat
  /-- R21: T_ACMD. -/
  tAcmd : Nat
  /-- R21: T_SEQ. -/
  tSeq : Nat
  /-- R91: BUF_ADDR_BITS. -/
  bufAddrBits : Nat
  /-- R53: the frequency named F_IDENT. -/
  fIdent : Nat
  /-- R53: the frequency named F_XFER. -/
  fXfer : Nat
  /-- R22, R132: the command indices. -/
  index : Indices
  /-- R22, R59–R66, R140: where the register fields stand. -/
  pos : Positions
  /-- R133: IF_PATTERN. -/
  ifPattern : BitVec 8
  /-- R133: IF_VHS. -/
  ifVhs : BitVec 4
  /-- R133: DSR_VALUE. -/
  dsrValue : BitVec 16
  /-- R133: MMC_RCA. -/
  mmcRca : BitVec 16
  /-- R133: the bus-width argument of ACMD6 that means 4 bits. -/
  busWidthArg : Word
  /-- R221: the enable bits of CLK_CTRL. -/
  clkEnable : PortWord
  /-- R403: the value `disabled` of CLK_CTRL. -/
  clkDisabled : PortWord
  /-- R403: the value `abort` of STOP. -/
  stopAbort : PortWord
  /-- R403: the value `assert` of SOFT_RST. -/
  softRstAssert : PortWord
  /-- R403: the value `release` of SOFT_RST. -/
  softRstRelease : PortWord
deriving DecidableEq, Repr

/-- R11: the legal values of a chunk limit. -/
def chunkLimitLegal (n : Nat) : Bool := decide (3 ≤ n) && decide (n ≤ 32767)

/-- R17: a power of two, at least 1. -/
def isPowerOfTwo (n : Nat) : Bool := decide (n ≠ 0) && decide (n &&& (n - 1) = 0)

/-- The ranges the spec gives for its parameters: R11 (chunk limit), R12–R15 (at least one attempt), R17
(alignment), R21 (T_ERASE ≥ 10·T_CMD), R9 and R392 (this channel is one of the channels), R123 (a buffer address is at
most 64 bits), R239 (a zero relative address is illegal), R132 (an index tells its command). -/
def Config.wf (c : Config) : Bool :=
  chunkLimitLegal c.chunkLimit && decide (1 ≤ c.resetAttempts) && decide (1 ≤ c.ocrPollLimit) &&
  decide (1 ≤ c.rcaAttempts) && decide (1 ≤ c.busySpinLimit) && isPowerOfTwo c.dmaAlign &&
  decide (10 * c.tCmd ≤ c.tErase) && decide (c.channel < c.nChannels) && decide (c.bufAddrBits ≤ 64) &&
  decide (c.mmcRca ≠ 0#16) && c.index.wf

/-- The configuration of `State.reset`. The values of R12–R17, R22 and R133 are the spec's reference values, those of
R16, R19 and R20 the reference values of `95_test_vectors.md`; the OPEN ones (R9, R11, R21, R53, R91, PORT_MAP) are
DESIGN CHOICES, unsafe (notes/assumptions/4.md). -/
def Config.reference : Config where
  nChannels := 1
  channel := 0
  portHandle := 0
  chunkLimit := 8
  resetAttempts := 3
  ocrPollLimit := 200
  ocrPollWait := 1
  rcaAttempts := 3
  busySpinLimit := 10000
  dmaCapable := true
  dmaAlign := 8
  host4Bit := true
  cardDetectSupported := true
  writeProtectSupported := true
  tCmd := 1
  tErase := 10
  tData := 1
  tAcmd := 1
  tSeq := 1
  bufAddrBits := 64
  fIdent := 0
  fXfer := 1
  index := .reference
  pos := .reference
  ifPattern := 0xAA#8
  ifVhs := 0x1#4
  dsrValue := 0x0404#16
  mmcRca := 1#16
  busWidthArg := 2#32
  clkEnable := 0x100#64
  clkDisabled := 0#64
  stopAbort := 1#64
  softRstAssert := 0#64
  softRstRelease := 1#64

/-! Free values (notes/assumptions/2.md). Each is applied to the counter `Env.draws`, which every draw advances, so
that two draws need not agree; nothing in Lean can evaluate one. -/

/-- An STS2 read that no listed answer covers (R70). -/
opaque Config.freeSts2 : Nat → Sts2
/-- A response-register read that no listed answer covers (R70, R96). -/
opaque Config.freeRsp : Nat → PortWord
/-- Any other register read, and a divider code, that no listed answer covers (R70). -/
opaque Config.freeReg : Nat → PortWord
/-- Whether a wait that no listed event ends returns Ok (`true`) or Timeout (R416). -/
opaque Config.freeWait : Nat → Bool
/-- A byte the spec leaves open: register data, a sector or buffer byte after a failure (R96, R107, R113, R443). -/
opaque Config.freeByte : Nat → Byte
/-- A pin level that no listed answer covers (R252, R354). -/
opaque Config.freeLevel : Nat → Bool
/-- The ROM-card draw that no listed answer covers (R252, D39). -/
opaque Config.freeRom : Nat → Bool
/-- The card-detect sample of driver init (R49, R430). -/
opaque Config.cardDetectAtInit : Bool

end Sys2Proof
end

