-- ==== Sys2Proof/Syntax.lean ====
section
/-! DEFINITION. The instructions of the block (`00_scope.md` R3): the host requests of `30_encoding.md` R121–R123 and
the wire commands of R132, one constructor per row of the opcode table. -/

namespace Sys2Proof

inductive Instr where
  /-- MOUNT (0x01): HOST_V2 = REQ[8], voltage window = ARG0[23:15] (R124, R125). -/
  | mount (hostV2 : Bool) (volt : BitVec 9)
  /-- UNMOUNT (0x02). -/
  | unmount
  /-- READ (0x03): start, count, buffer address, buffer length (R123). -/
  | read (start count : Word) (buf : BitVec 64) (len : Word)
  /-- WRITE (0x04). -/
  | write (start count : Word) (buf : BitVec 64) (len : Word)
  /-- GET_GEOMETRY (0x05). -/
  | getGeometry
  /-- GET_MEDIA_KIND (0x06). -/
  | getMediaKind
  /-- GET_WP (0x07). -/
  | getWp
  /-- IS_PRESENT (0x08). -/
  | isPresent
  /-- REQUEST_STOP (0x09). -/
  | requestStop
  /-- LOCK_UNLOCK (0x0A): operation code, password buffer, password length (R123). -/
  | lockUnlock (op : Word) (pwBuf : BitVec 64) (pwLen : Word)
  /-- STANDBY (0x0B). -/
  | standby
  /-- ACTIVE (0x0C). -/
  | active
  /-- Every other value of REQ (R122). -/
  | reservedRequest (word : Word)
  /-- CMD0 GO_IDLE_STATE. -/
  | cmd0 (arg : Word)
  /-- CMD1 SEND_OP_COND (MMC). -/
  | cmd1 (arg : Word)
  /-- CMD2 ALL_SEND_CID. -/
  | cmd2 (arg : Word)
  /-- CMD3 SEND_RELATIVE_ADDR (SD): the argument assigns no address. -/
  | cmd3Sd (arg : Word)
  /-- CMD3 SET_RELATIVE_ADDR (MMC): the argument's upper half assigns an address. -/
  | cmd3Mmc (arg : Word)
  /-- CMD4 SET_DSR. -/
  | cmd4 (arg : Word)
  /-- CMD7 SELECT_CARD. -/
  | cmd7 (arg : Word)
  /-- CMD8 SEND_IF_COND. -/
  | cmd8 (arg : Word)
  /-- CMD9 SEND_CSD. -/
  | cmd9 (arg : Word)
  /-- CMD12 STOP_TRANSMISSION. -/
  | cmd12 (arg : Word)
  /-- CMD13 SEND_STATUS. -/
  | cmd13 (arg : Word)
  /-- CMD16 SET_BLOCKLEN. -/
  | cmd16 (arg : Word)
  /-- CMD17 READ_SINGLE_BLOCK. -/
  | cmd17 (arg : Word)
  /-- CMD18 READ_MULTIPLE_BLOCK. -/
  | cmd18 (arg : Word)
  /-- CMD24 WRITE_BLOCK. -/
  | cmd24 (arg : Word)
  /-- CMD25 WRITE_MULTIPLE_BLOCK. -/
  | cmd25 (arg : Word)
  /-- CMD55 APP_CMD. -/
  | cmd55 (arg : Word)
  /-- ACMD6 SET_BUS_WIDTH. -/
  | acmd6 (arg : Word)
  /-- ACMD13 SD_STATUS. -/
  | acmd13 (arg : Word)
  /-- ACMD22 SEND_NUM_WR_BLOCKS. -/
  | acmd22 (arg : Word)
  /-- ACMD41 SD_SEND_OP_COND. -/
  | acmd41 (arg : Word)
  /-- ACMD42 SET_CLR_CARD_DETECT. -/
  | acmd42 (arg : Word)
  /-- ACMD51 SEND_SCR. -/
  | acmd51 (arg : Word)
deriving DecidableEq, Repr

/-- The words of a host request: REQ and ARG0..ARG4 (R120). -/
structure RequestWords where
  req : Word
  arg0 : Word
  arg1 : Word
  arg2 : Word
  arg3 : Word
  arg4 : Word
deriving DecidableEq, Repr

/-- A wire command as the block spells it: bits 47:40 of the wire frame (start 0, direction 1, index) and its bits 39:8
(the argument). CRC7 and the end bit are made by the controller (R130). -/
structure Frame where
  head : Byte
  arg : Word
deriving DecidableEq, Repr

/-- An encoded instruction: a host request, or a wire command with whether the preceding command announced it as
application-specific (R131). -/
inductive Code where
  | request (words : RequestWords)
  | wire (app : Bool) (frame : Frame)
deriving DecidableEq, Repr

end Sys2Proof
end

