-- ==== Sys2Proof/WellFormed.lean ====
section
/-! DEFINITION. Which terms of Instr an encoding spells: a reserved request carries a reserved word (R122), and the two
CMD3 rows are told apart by whether the argument's upper half assigns an address (R132; notes/assumptions/7.md). -/

namespace Sys2Proof

/-- The reserved values of REQ, R122: opcode 0x00 or 0x0D..0xFF, REQ[31:16] ≠ 0, REQ[15:9] ≠ 0 for MOUNT,
REQ[15:8] ≠ 0 for any other opcode. -/
def reservedRequestWord (w : Word) : Bool :=
  let opcode := w.extractLsb' 0 8
  decide (opcode = 0#8) || decide (0x0D#8 ≤ opcode) || decide (w.extractLsb' 16 16 ≠ 0#16) ||
  (if opcode = 1#8 then decide (w.extractLsb' 9 7 ≠ 0#7) else decide (w.extractLsb' 8 8 ≠ 0#8))

/-- Whether a CMD3 argument assigns an address: its upper half is not zero (R132, R189). -/
def assignsAddress (arg : Word) : Bool := decide (arg.extractLsb' 16 16 ≠ 0#16)

/-- The check a decoded instruction passes. -/
def Instr.wf : Instr → Bool
  | .reservedRequest w => reservedRequestWord w
  | .cmd3Sd arg => !assignsAddress arg
  | .cmd3Mmc arg => assignsAddress arg
  | .mount _ _ | .unmount | .read _ _ _ _ | .write _ _ _ _ | .getGeometry | .getMediaKind | .getWp | .isPresent
  | .requestStop | .lockUnlock _ _ _ | .standby | .active => true
  | .cmd0 _ | .cmd1 _ | .cmd2 _ | .cmd4 _ | .cmd7 _ | .cmd8 _ | .cmd9 _ | .cmd12 _ | .cmd13 _ | .cmd16 _ | .cmd17 _
  | .cmd18 _ | .cmd24 _ | .cmd25 _ | .cmd55 _ => true
  | .acmd6 _ | .acmd13 _ | .acmd22 _ | .acmd41 _ | .acmd42 _ | .acmd51 _ => true

end Sys2Proof
end

