-- ==== Sys2Proof/Decode.lean ====
section
/-! DEFINITION. The decoder (`30_encoding.md` R120–R127 for requests, R130–R132 for wire commands), total on every code
and rejecting by name, and after it the encoder. -/

namespace Sys2Proof

/-- Why a code is no instruction. A reserved request is not here: it is the table's row RESERVED_REQUEST. -/
inductive Reject where
  /-- The frame's start bit is not 0 or its direction bit is not 1 (R130). -/
  | notAHostFrame
  /-- The index is none of R132's (R134). -/
  | unspelledIndex (index : BitVec 6)
deriving DecidableEq, Repr

/-! ### Decoding -/

/-- The opcodes other than MOUNT (R121), for a request word whose bits 31:8 are zero. -/
def decodeOpcode (opcode : Nat) (r : RequestWords) : Instr :=
  match opcode with
  | 0x02 => .unmount
  | 0x03 => .read r.arg0 r.arg1 (r.arg3 ++ r.arg2) r.arg4
  | 0x04 => .write r.arg0 r.arg1 (r.arg3 ++ r.arg2) r.arg4
  | 0x05 => .getGeometry
  | 0x06 => .getMediaKind
  | 0x07 => .getWp
  | 0x08 => .isPresent
  | 0x09 => .requestStop
  | 0x0A => .lockUnlock r.arg0 (r.arg2 ++ r.arg1) r.arg3
  | 0x0B => .standby
  | 0x0C => .active
  | _ => .reservedRequest r.req

/-- A request: R120 (layout), R121 (opcodes), R122 (reserved values), R123–R125 (operands). -/
def decodeRequest (r : RequestWords) : Instr :=
  if r.req.extractLsb' 16 16 ≠ 0#16 then .reservedRequest r.req
  else if r.req.extractLsb' 0 8 = 1#8 then
    if r.req.extractLsb' 9 7 = 0#7 then .mount (r.req.getLsbD 8) (r.arg0.extractLsb' 15 9)
    else .reservedRequest r.req
  else if r.req.extractLsb' 8 8 ≠ 0#8 then .reservedRequest r.req
  else decodeOpcode (r.req.extractLsb' 0 8).toNat r

/-- The plain commands of R132, each with its index. -/
def cmdRows (t : Indices) (arg : Word) : List (BitVec 6 × Instr) :=
  [(t.cmd0, .cmd0 arg), (t.cmd1, .cmd1 arg), (t.cmd2, .cmd2 arg),
   (t.cmd3, if assignsAddress arg then .cmd3Mmc arg else .cmd3Sd arg), (t.cmd4, .cmd4 arg), (t.cmd7, .cmd7 arg),
   (t.cmd8, .cmd8 arg), (t.cmd9, .cmd9 arg), (t.cmd12, .cmd12 arg), (t.cmd13, .cmd13 arg), (t.cmd16, .cmd16 arg),
   (t.cmd17, .cmd17 arg), (t.cmd18, .cmd18 arg), (t.cmd24, .cmd24 arg), (t.cmd25, .cmd25 arg), (t.cmd55, .cmd55 arg)]

/-- The application-specific commands of R132, each with its index. -/
def acmdRows (t : Indices) (arg : Word) : List (BitVec 6 × Instr) :=
  [(t.acmd6, .acmd6 arg), (t.acmd13, .acmd13 arg), (t.acmd22, .acmd22 arg), (t.acmd41, .acmd41 arg),
   (t.acmd42, .acmd42 arg), (t.acmd51, .acmd51 arg)]

/-- The plain command of an index (R132). -/
def decodeCmd (t : Indices) (index : BitVec 6) (arg : Word) : Option Instr := (cmdRows t arg).lookup index

/-- The application-specific command of an index (R132). -/
def decodeAcmd (t : Indices) (index : BitVec 6) (arg : Word) : Option Instr := (acmdRows t arg).lookup index

/-- A wire frame. "A decoder tells an ACMD from the CMD of the same index only by the preceding CMD55" (R131): after one,
an index with an ACMD row is that ACMD. -/
def decodeFrame (t : Indices) (app : Bool) (f : Frame) : Except Reject Instr :=
  if f.head.extractLsb' 6 2 ≠ 1#2 then .error .notAHostFrame
  else
    let index := f.head.extractLsb' 0 6
    let announced := if app then decodeAcmd t index f.arg else none
    match announced.or (decodeCmd t index f.arg) with
    | some i => .ok i
    | none => .error (.unspelledIndex index)

/-- The decoder, under the indices of the configuration (R22). -/
def decode (t : Indices) : Code → Except Reject Instr
  | .request r => .ok (decodeRequest r)
  | .wire app f => decodeFrame t app f

/-! ### Encoding -/

/-- The first frame byte {start 0, direction 1, index} (R130). -/
def frameHead (index : BitVec 6) : Byte := 1#2 ++ index

def wireCode (index : BitVec 6) (arg : Word) : Code := .wire false ⟨frameHead index, arg⟩
def appCode (index : BitVec 6) (arg : Word) : Code := .wire true ⟨frameHead index, arg⟩

/-- A request whose arguments are all zero. -/
def plainRequest (req : Word) : Code := .request ⟨req, 0#32, 0#32, 0#32, 0#32, 0#32⟩

/-- The words of a transfer request (R123). -/
def transferRequest (req start count : Word) (buf : BitVec 64) (len : Word) : Code :=
  .request ⟨req, start, count, buf.extractLsb' 0 32, buf.extractLsb' 32 32, len⟩

/-- The words of an instruction, from the tables of R121, R123 and R132. -/
def encode (t : Indices) : Instr → Code
  | .mount v2 volt => .request ⟨0#23 ++ BitVec.ofBool v2 ++ 1#8, 0#8 ++ volt ++ 0#15, 0#32, 0#32, 0#32, 0#32⟩
  | .unmount => plainRequest 2#32
  | .read start count buf len => transferRequest 3#32 start count buf len
  | .write start count buf len => transferRequest 4#32 start count buf len
  | .getGeometry => plainRequest 5#32
  | .getMediaKind => plainRequest 6#32
  | .getWp => plainRequest 7#32
  | .isPresent => plainRequest 8#32
  | .requestStop => plainRequest 9#32
  | .lockUnlock op pwBuf pwLen =>
      .request ⟨10#32, op, pwBuf.extractLsb' 0 32, pwBuf.extractLsb' 32 32, pwLen, 0#32⟩
  | .standby => plainRequest 11#32
  | .active => plainRequest 12#32
  | .reservedRequest w => plainRequest w
  | .cmd0 arg => wireCode t.cmd0 arg
  | .cmd1 arg => wireCode t.cmd1 arg
  | .cmd2 arg => wireCode t.cmd2 arg
  | .cmd3Sd arg => wireCode t.cmd3 arg
  | .cmd3Mmc arg => wireCode t.cmd3 arg
  | .cmd4 arg => wireCode t.cmd4 arg
  | .cmd7 arg => wireCode t.cmd7 arg
  | .cmd8 arg => wireCode t.cmd8 arg
  | .cmd9 arg => wireCode t.cmd9 arg
  | .cmd12 arg => wireCode t.cmd12 arg
  | .cmd13 arg => wireCode t.cmd13 arg
  | .cmd16 arg => wireCode t.cmd16 arg
  | .cmd17 arg => wireCode t.cmd17 arg
  | .cmd18 arg => wireCode t.cmd18 arg
  | .cmd24 arg => wireCode t.cmd24 arg
  | .cmd25 arg => wireCode t.cmd25 arg
  | .cmd55 arg => wireCode t.cmd55 arg
  | .acmd6 arg => appCode t.acmd6 arg
  | .acmd13 arg => appCode t.acmd13 arg
  | .acmd22 arg => appCode t.acmd22 arg
  | .acmd41 arg => appCode t.acmd41 arg
  | .acmd42 arg => appCode t.acmd42 arg
  | .acmd51 arg => appCode t.acmd51 arg

/-! ### The opcode table's words -/

/-- Byte k of a table word. -/
def tableByte (w k : Nat) : Byte := BitVec.ofNat 8 (w / 256 ^ k)

/-- Word k of a table word. -/
def tableWord32 (w k : Nat) : Word := BitVec.ofNat 32 (w / 4294967296 ^ k)

/-- The code that a table row's bits spell. A wire row gives the first frame byte only (8 bits), or that byte and the
argument bytes behind it, most significant first; a request row gives REQ, or REQ and the ARG words behind it. Every bit
above nbits is zero. -/
def tableCode (nbits w : Nat) (app : Bool) : Code :=
  let v := w % 2 ^ nbits
  if nbits = 8 ∨ nbits = 40 ∨ nbits = 48 then
    .wire app ⟨tableByte v 0, tableByte v 1 ++ tableByte v 2 ++ tableByte v 3 ++ tableByte v 4⟩
  else
    .request ⟨tableWord32 v 0, tableWord32 v 1, tableWord32 v 2, tableWord32 v 3, tableWord32 v 4, tableWord32 v 5⟩

/-- A row whose index has no plain command is read as announced by CMD55, the prefix the table gives every ACMD row
(notes/assumptions/7.md). -/
def tableApp (t : Indices) (nbits w : Nat) : Bool :=
  match decode t (tableCode nbits w false) with
  | .ok _ => false
  | .error _ => true

/-- The instruction the decoder reads from a table row's bits, under the table's indices. -/
def decodeTableWord (nbits w : Nat) : Option Instr :=
  match decode .reference (tableCode nbits w (tableApp .reference nbits w)) with
  | .ok i => some i
  | .error _ => none

end Sys2Proof
end

