-- ==== Sys2Proof/Machine/State.lean ====
section
/-! DEFINITION. The state of one channel of the engine, as plain data: the Channel Handle of `10_state.md`, the request
interface of R72, the two memories of `20_memory.md` R90, the sequencer's own variables, the environment's answers, and
the state after driver init (R73, R430). -/

namespace Sys2Proof.Machine

/-- The ErrorKinds of R380. -/
inductive ErrorKind where
  | outOfRange | addressError | blockLengthError | eraseError | writeProtectViolation | cardLocked
  | cardUnlockFailed | crc | illegalCommand | eccFailed | controllerInternalError | cardInternalError
  | authenticationSequenceError
  | hostIllegalAccess | timeoutCommand | hostBufferUnderrun | hostBufferOverrun | timeoutData
  | hostEndBitError | hostCrcError | hostCommandError | timeoutHost | commandBusy
  | notSupportedCommand | registerVersionError | noCard | stopped | shortWrite | internalError
  | interfaceConditionEcho | interfaceConditionVersion | unsupportedCardType | notMounted
deriving DecidableEq, Repr

/-- The step the engine is at, its program counter (R31). -/
inductive Phase where
  | idle
  | mReset | mIfCond | mOcrSd | mOcrMmc | mCid | mRca | mCsd | mDsr | mScr | mGeometry | mSelect | mBlockLen
  | mBusWidth | mClrStatus | mSdStatus | mDone
  | xCheck | xBurst | xSingle | xMulti | xStop | xVerify | xWrCount | xDone
  | recovery
  | hostOp
deriving DecidableEq, Repr

/-- R36. -/
inductive MediaKind where
  | unknown | mmc | sd | sdMmcMemory
deriving DecidableEq, Repr

/-- R37. -/
inductive MountState where
  | unmounted | mountedUnlocked | mountedLocked
deriving DecidableEq, Repr

/-- R40. -/
inductive BusWidth where
  | one | four
deriving DecidableEq, Repr

/-- R46. -/
inductive Revision where
  | r1_0x | r1_10 | r2_00 | r3_00 | mmc
deriving DecidableEq, Repr

/-- R53. -/
inductive ClockFreq where
  | fIdent | fXfer
deriving DecidableEq, Repr

/-- R55. -/
inductive DmaState where
  | idle | armed | done | residual
deriving DecidableEq, Repr

/-- R56. -/
inductive XferMode where
  | dma | sw
deriving DecidableEq, Repr

/-- R56. -/
inductive BlockMode where
  | single | multi
deriving DecidableEq, Repr

/-- R57. -/
inductive Direction where
  | read | write
deriving DecidableEq, Repr

/-- The event classes of R390. -/
inductive EventClass where
  | respEnd | cmdError | bufReady | bufEmpty | accessEnd | dataError | dmaEnd | cardInsert | cardRemove
deriving DecidableEq, Repr

/-- The timeout classes of R166. -/
inductive TimeoutClass where
  | cmd | acmd | data | seq | erase
deriving DecidableEq, Repr

/-- The response kinds of R160. -/
inductive RespKind where
  | none | r1 | r1b | r2 | r3 | r6 | r7
deriving DecidableEq, Repr

/-- The controller registers the rules name by role (R92). -/
inductive PortReg where
  | arg | rsp | sts1 | sts2 | clkCtrl | option | softRst | stop | blkCnt
deriving DecidableEq, Repr

/-- One call of the Port (R70), as the engine makes it. `command` is the write `Reg(CMD) <- {kind code, cmd}` of R160;
`mask` is the interrupt-mask write; `dataPort` is the copy of one sector or register image through the data port (R99,
R181). -/
inductive PortCall where
  | read (r : PortReg)
  | write (r : PortReg) (v : PortWord)
  | command (kind : RespKind) (index : BitVec 6)
  | mask (classes : List EventClass)
  | lockCpu
  | unlockCpu
  | divider (frequency : Nat)
  | wait (classes : List EventClass) (window : Nat)
  | dmaInit (buf : Nat) (dir : Direction)
  | dmaWaitEnd
  | dmaDisable
  | dmaReset
  | busSelect (w : BusWidth)
  | autoStop (on : Bool)
  | cardDetectLevel
  | writeProtectLevel
  | delay (duration : Nat)
  | dataPort (dir : Direction)
deriving DecidableEq, Repr

/-- A Port call with its channel argument, the register handle of R32, and the hidden state between the atomic steps at
which the engine makes it (R50, R54, R55, R455; notes/assumptions/33.md). -/
structure PortEvent where
  base : Nat
  call : PortCall
  inFlight : Bool
  irqMask : List EventClass
  dmaState : DmaState
deriving DecidableEq, Repr

/-- The Transfer Request (R57). -/
structure TransferRequest where
  start : Nat
  count : Nat
  buf : Nat
  len : Nat
  dir : Direction
  done : Nat
deriving DecidableEq, Repr

/-- A card-register image of the handle (R39): its value, and whether the command that produces it has written it. -/
structure CardRegister (w : Nat) where
  value : BitVec w
  written : Bool
deriving DecidableEq, Repr

/-- "unwritten", the spec's own state of an image (R39, R73, R220, R350). Its value is 0, which no rule reads
(DESIGN CHOICE, unsafe, notes/assumptions/3.md). -/
def CardRegister.unwritten {w : Nat} : CardRegister w := ⟨0#w, false⟩

/-- An image that a command or a reset of the handle has written. -/
def CardRegister.holding {w : Nat} (value : BitVec w) : CardRegister w := ⟨value, true⟩

/-- The Channel Handle (R32–R58). -/
structure Handle where
  registerBase : Nat
  phase : Phase
  cardSectorSize : Nat
  protectSectorSize : Nat
  eraseSectorCount : Nat
  mediaKind : MediaKind
  mountState : MountState
  writeProtectFlags : BitVec 4
  ocr : CardRegister 32
  cid : CardRegister 128
  csd : CardRegister 128
  dsr : CardRegister 16
  rca : CardRegister 16
  scr : CardRegister 64
  sdStatus : CardRegister 512
  ifCond : CardRegister 32
  busWidth : BusWidth
  transferSpeedClass : BitVec 8
  stickyError : Option ErrorKind
  compulsoryStop : Bool
  transferChunkLimit : Nat
  revision : Revision
  ifOk : Bool
  highCapacity : Bool
  cardPresent : Bool
  inFlight : Bool
  opActive : Bool
  clockOn : Bool
  clockFreq : ClockFreq
  irqMask : List EventClass
  dmaState : DmaState
  xferMode : XferMode
  blockMode : BlockMode
  req : Option TransferRequest
  lastR1 : Word
  lastSts2 : Sts2
deriving DecidableEq, Repr

/-- The request interface (R72). BUSY is `Handle.opActive`. -/
structure RequestIf where
  req : Word
  arg0 : Word
  arg1 : Word
  arg2 : Word
  arg3 : Word
  arg4 : Word
  result : Word
  data0 : Word
  data1 : Word
  data2 : Word
deriving DecidableEq, Repr

/-- The outcome of the wire command just completed, for the control step that follows it. -/
inductive CmdResult where
  | ok
  | failed (e : ErrorKind)
deriving DecidableEq, Repr

/-- Where the mount goes on after the reset sequence: its first run (R223), the replay after the interface probe
(R226), the replay before the MMC probe (R233). -/
inductive ResetResume where
  | toIfCond | toOcrSd | toOcrMmc
deriving DecidableEq, Repr

/-- The burst now running (R299): its first sector, size n, the sector k of a single-block burst, its buffer address b,
and whether it ends at the card's last sector. n is also the controller's transfer-block count (R198, R310). -/
structure Burst where
  first : Nat
  n : Nat
  k : Nat
  buf : Nat
  last : Bool
deriving DecidableEq, Repr

/-- The local variables of the spec's pseudocode, the MODEL's own fields (notes/assumptions/29.md). -/
structure Sequencer where
  /-- The wire command spelled for the next step. -/
  staged : Option Frame
  /-- The result of the command just completed, until a control step has used it. -/
  done : Option CmdResult
  /-- The preceding command was a CMD55 the card accepted (R131, R180). -/
  app : Bool
  /-- Attempts or iterations left in the loop now running (R223, R230, R239). -/
  left : Nat
  resume : ResetResume
  volt : BitVec 9
  hostV2 : Bool
  /-- Recovery's operand (R400). -/
  selected : Bool
  /-- The CMD12 in flight is the abort of R321. -/
  aborting : Bool
  /-- Recovery's status poll is done and its CMD12 is in flight (R404). -/
  polled : Bool
  /-- Recovery's captured error (R401). -/
  saved : Option ErrorKind
  burst : Burst
  /-- The written-block counter (R318). -/
  wrCount : Word
  /-- The sectors that a data command's software path had copied when the wait for the next one failed (R307, R410). -/
  copied : Nat
  /-- Another agent has touched the running transfer's buffer (R437). -/
  touched : Bool
  /-- The bytes of the running burst are draws (R391, R436, R437, R443). -/
  doubtful : Bool
deriving DecidableEq, Repr

/-- What can land inside a request's step (R29, R439, R455; notes/assumptions/1.md). -/
inductive Midway where
  /-- A callback of the interrupt dispatcher (R390–R392). -/
  | callback (ev : EventClass) (channel : Nat)
  /-- The host writes the ARGs and REQUEST_STOP (R355, R360). -/
  | stop (arg0 arg1 arg2 arg3 arg4 : Word)
deriving DecidableEq, Repr

/-- The answers of the Port and of the card still to come, oldest first, the MODEL's own fields
(notes/assumptions/2.md). Past the end of a list an answer is a free value of Config applied to `draws`. -/
structure Env where
  sts2 : List Sts2
  rsp : List PortWord
  regs : List PortWord
  /-- What ends each wait: an event of a class, or the end of its window. -/
  events : List (Option EventClass)
  bytes : List Byte
  cardDetect : List Bool
  writeProtect : List Bool
  rom : List Bool
  draws : Nat
  /-- Another channel runs a DMA transfer on a shared DMA engine (R443). -/
  peerDma : Bool
  /-- The card is powered (R436). -/
  powered : Bool
  /-- The card has been removed or has lost power since the last MOUNT: its sector data is a draw (R391, R436, I11). -/
  cardLost : Bool
  /-- What lands inside the steps of requests, one list per point where its order can be seen (R439, R451,
  notes/assumptions/1.md); past the end nothing does. -/
  during : List (List Midway)
deriving DecidableEq, Repr

/-- Memory: (address, byte) pairs in the canonical form of `Memory.wf` (Machine/Memory.lean). -/
abbrev Memory := List Host.Cell

/-- What the outside does, between two engine steps (notes/assumptions/10.md). -/
inductive Input where
  /-- The host writes ARG0..ARG4 and then REQ (R120). -/
  | request (words : RequestWords)
  /-- A callback of the interrupt dispatcher (R390–R392). -/
  | callback (ev : EventClass) (channel : Nat) (extra : Word)
  /-- The host, or another agent beside the engine, stores a byte to buffer memory (R437). -/
  | store (addr : BitVec 64) (b : Byte)
  /-- It reads a byte of buffer memory (R437). -/
  | load (addr : BitVec 64)
  /-- The card's supply comes on or goes off (R436). -/
  | power (on : Bool)
  /-- Another channel's DMA transfer on a shared DMA engine starts or ends (R443). -/
  | peerDma (busy : Bool)
  /-- Driver init (R430). -/
  | driverInit
  /-- The end of the handle's lifetime (R432). -/
  | finalize
deriving DecidableEq, Repr

structure State where
  cfg : Config
  h : Handle
  io : RequestIf
  seq : Sequencer
  env : Env
  /-- S1, caller buffer memory (R90). -/
  mem : Memory
  /-- S3, the card's sectors, byte k of sector s at key 512·s + k (R90, R96). -/
  card : Memory
  /-- The Port calls made, newest first: the MODEL's own record. -/
  log : List PortEvent
  /-- What the outside does: one slot per step, `none` when the engine moves; empty when nothing arrives any more. -/
  inputs : List (Option Input)
  /-- The channel accepts no more requests (R432). -/
  finalized : Bool
deriving DecidableEq, Repr

/-- Why the machine stops: the spec's own rules have been broken (`93_implementation_defined.md`: "fault"). -/
inductive Fault where
  /-- Raised by every wire command when `in_flight` = 1 (R163, I16). Safe: no run reaches it. -/
  | commandInFlight
  /-- Raised by a data command on the DMA path when `dma_state` is DmaArmed or DmaResidual (R308, I16). Safe. -/
  | dmaNotIdle
  /-- Raised by a control step that reads a card register image nothing has written (R39, I17). Safe. -/
  | unwrittenImage
  /-- Raised by a control step in a state no run reaches: a phase without its command's result, or a transfer phase
  without a transfer request. Safe. -/
  | sequencerStuck
deriving DecidableEq, Repr

/-- Why a step has no meaning (`93_implementation_defined.md`: "refuse", the request is given no step). -/
inductive Refusal where
  /-- Raised by an arm of exec whose instruction has no meaning yet. Safe. -/
  | notModelled (mnemonic : String)
  /-- Raised by RESERVED_REQUEST (R122, R442). Safe. -/
  | reservedRequest (word : Word)
  /-- Raised by LOCK_UNLOCK, whose sequence and effect the spec does not give (R357). Safe. -/
  | lockUnlockNotSpecified
  /-- Raised by STANDBY, which the spec names and does not describe (R359). Safe. -/
  | standbyNotSpecified
  /-- Raised by ACTIVE, which the spec names and does not describe (R359). Safe. -/
  | activeNotSpecified
  /-- Raised by every request but REQUEST_STOP, and by finalize, while BUSY = 1 (R360, R441). Safe. -/
  | overlappingRequest
  /-- Raised by READ and WRITE when len < 512·count (R91, R437). Safe. -/
  | shortBuffer
  /-- Raised by READ and WRITE that would move bytes past the end of the buffer address space (R91, R294;
  notes/assumptions/16.md). Safe. -/
  | bufferOutsideMemory
  /-- Raised by step under a configuration outside its legal ranges (R11; notes/assumptions/20.md). Safe. -/
  | illFormedConfiguration
  /-- Raised by driver init while BUSY = 1 (R434). Safe. -/
  | resetWhileBusy
  /-- Raised by every request after finalize (R432). Safe. -/
  | channelFinalized
  /-- Raised by step when the staged frame is no command of R132 (R134). Safe: no run reaches it. -/
  | notACommand (why : Reject)
deriving DecidableEq, Repr

/-- What a step and a meaning answer. -/
abbrev Result := Host.Outcome State Fault Refusal

/-- The handle after driver init (R73), with the Port's card-detect sample (R49). -/
def Handle.reset (cfg : Config) (level : Bool) : Handle where
  registerBase := cfg.portHandle
  phase := .idle
  cardSectorSize := 0
  protectSectorSize := 0
  eraseSectorCount := 0
  mediaKind := .unknown
  mountState := .unmounted
  writeProtectFlags := 0#4
  ocr := .unwritten
  cid := .unwritten
  csd := .unwritten
  dsr := .unwritten
  rca := .unwritten
  scr := .unwritten
  sdStatus := .unwritten
  ifCond := .unwritten
  busWidth := .one
  transferSpeedClass := 0#8
  stickyError := none
  compulsoryStop := false
  transferChunkLimit := cfg.chunkLimit
  revision := .r1_0x
  ifOk := false
  highCapacity := false
  cardPresent := if cfg.cardDetectSupported then level else true
  inFlight := false
  opActive := false
  clockOn := false
  clockFreq := .fIdent
  irqMask := []
  dmaState := .idle
  xferMode := .sw
  blockMode := .single
  req := none
  lastR1 := 0#32
  lastSts2 := 0#16

/-- R72, R430: every register of the request interface is 0. -/
def RequestIf.reset : RequestIf := ⟨0, 0, 0, 0, 0, 0, 0, 0, 0, 0⟩

/-- The sequencer's variables before any operation (DESIGN CHOICE, notes/assumptions/29.md). -/
def Sequencer.reset : Sequencer where
  staged := none
  done := none
  app := false
  left := 0
  resume := .toIfCond
  volt := 0#9
  hostV2 := false
  selected := false
  aborting := false
  polled := false
  saved := none
  burst := ⟨0, 0, 0, 0, false⟩
  wrCount := 0#32
  copied := 0
  touched := false
  doubtful := false

/-- No listed answer: every answer is a free value. The card is powered (R433, R436). -/
def Env.reset : Env := ⟨[], [], [], [], [], [], [], [], 0, false, true, false, []⟩

/-- Driver init of a channel with a given configuration and card-detect sample (R430), before anything is listed in a
memory. -/
def State.resetWith (cfg : Config) (level : Bool) : State where
  cfg := cfg
  h := Handle.reset cfg level
  io := RequestIf.reset
  seq := Sequencer.reset
  env := Env.reset
  mem := []
  card := []
  log := if cfg.cardDetectSupported then [⟨cfg.portHandle, .cardDetectLevel, false, [], .idle⟩] else []
  inputs := []
  finalized := false

/-- The machine right after reset, under the reference configuration; the card-detect sample is a draw (R49). -/
def State.reset : State := State.resetWith Config.reference Config.cardDetectAtInit

/-- BUSY (R72): one storage with `op_active`. -/
def State.busy (s : State) : Bool := s.h.opActive

end Sys2Proof.Machine
end

