-- ==== Sys2Proof/Machine/Memory.lean ====
section
/-! DEFINITION. Memory as a list of (address, byte) pairs in one canonical form: addresses strictly rising, no entry equal
to what an unlisted address reads as. -/

namespace Sys2Proof.Machine

/-- What an unlisted byte reads as, in buffer memory and on the card (DESIGN CHOICE, unsafe, notes/assumptions/5.md). -/
def unlistedByte : Byte := 0#8

/-- The canonical form. -/
def Memory.wf : Memory → Bool
  | [] => true
  | [c] => decide (c.2 ≠ unlistedByte)
  | c :: d :: m => decide (c.2 ≠ unlistedByte) && decide (c.1 < d.1) && Memory.wf (d :: m)

/-- One byte. -/
def Memory.read : Memory → Nat → Byte
  | [], _ => unlistedByte
  | c :: m, a => if c.1 = a then c.2 else Memory.read m a

/-- `n` bytes from `a` on. -/
def Memory.readBytes (m : Memory) (a n : Nat) : List Byte := (List.range n).map fun i => m.read (a + i)

/-- The entries of the bytes `bs` laid out from `a` on. -/
def cellsFrom : Nat → List Byte → Memory
  | _, [] => []
  | a, b :: bs => if b = unlistedByte then cellsFrom (a + 1) bs else (a, b) :: cellsFrom (a + 1) bs

/-- Store the bytes `bs` from `a` on: the entries below `a`, the new ones, the entries above. -/
def Memory.writeBytes (m : Memory) (a : Nat) (bs : List Byte) : Memory :=
  m.filter (fun c => decide (c.1 < a)) ++ cellsFrom a bs ++ m.filter (fun c => decide (a + bs.length ≤ c.1))

end Sys2Proof.Machine
end

