-- ==== Sys2Proof/Machine/Flags.lean ====
section
/-! DEFINITION. The status words: ErrorKind codes (R380), the R1 card status (R140–R142, R174, R316), the secondary
status (R145, R146, R165), the handle's flags. -/

namespace Sys2Proof.Machine

/-- R380. -/
def errorCode : ErrorKind → BitVec 8
  | .outOfRange => 0x01#8
  | .addressError => 0x02#8
  | .blockLengthError => 0x03#8
  | .eraseError => 0x04#8
  | .writeProtectViolation => 0x05#8
  | .cardLocked => 0x06#8
  | .cardUnlockFailed => 0x07#8
  | .crc => 0x08#8
  | .illegalCommand => 0x09#8
  | .eccFailed => 0x0A#8
  | .controllerInternalError => 0x0B#8
  | .cardInternalError => 0x0C#8
  | .authenticationSequenceError => 0x0D#8
  | .hostIllegalAccess => 0x10#8
  | .timeoutCommand => 0x11#8
  | .hostBufferUnderrun => 0x12#8
  | .hostBufferOverrun => 0x13#8
  | .timeoutData => 0x14#8
  | .hostEndBitError => 0x15#8
  | .hostCrcError => 0x16#8
  | .hostCommandError => 0x17#8
  | .timeoutHost => 0x18#8
  | .commandBusy => 0x19#8
  | .notSupportedCommand => 0x20#8
  | .registerVersionError => 0x21#8
  | .noCard => 0x22#8
  | .stopped => 0x23#8
  | .shortWrite => 0x24#8
  | .internalError => 0x25#8
  | .interfaceConditionEcho => 0x26#8
  | .interfaceConditionVersion => 0x27#8
  | .unsupportedCardType => 0x28#8
  | .notMounted => 0x29#8

/-- RESULT of a failed operation (R129). -/
def errorResult (e : ErrorKind) : Word := 0#24 ++ errorCode e

/-- RESULT of a successful operation (R129). -/
def okResult : Word := 0#32

/-- RESULT of MOUNT's locked outcome (R129, R255). -/
def lockedResult : Word := 0x100#32

/-- The media codes of R36. -/
def mediaCode : MediaKind → BitVec 8
  | .unknown => 0x00#8
  | .mmc => 0x10#8
  | .sd => 0x20#8
  | .sdMmcMemory => 0x30#8

/-- The row of the highest bit that is set, if any is ("the highest-numbered bit decides", R141, R145). -/
def highestSet (rows : List (Nat × ErrorKind)) (set : Nat → Bool) : Option (Nat × ErrorKind) :=
  match rows with
  | [] => none
  | row :: rest =>
    match highestSet rest set with
    | none => if set row.1 then some row else none
    | some best => if set row.1 ∧ best.1 < row.1 then some row else some best

/-- R140. -/
def r1Table (p : R1Positions) : List (Nat × ErrorKind) :=
  [(p.outOfRange, .outOfRange), (p.addressError, .addressError), (p.blockLengthError, .blockLengthError),
   (p.eraseError, .eraseError), (p.writeProtectViolation, .writeProtectViolation), (p.cardLocked, .cardLocked),
   (p.crc, .crc), (p.illegalCommand, .illegalCommand), (p.eccFailed, .eccFailed),
   (p.controllerInternalError, .controllerInternalError), (p.cardInternalError, .cardInternalError),
   (p.authenticationSequenceError, .authenticationSequenceError)]

/-- A word with one bit set. -/
def bit (n : Nat) : Word := 1#32 <<< n

/-- R1_ERR_MASK (R140): the bits of the table. -/
def r1ErrMask (p : R1Positions) : Word := (r1Table p).foldl (fun m row => m ||| bit row.1) 0#32

/-- R141: the highest listed bit that is set decides. -/
def r1Error (p : R1Positions) (status : Word) : Option ErrorKind := (highestSet (r1Table p) status.getLsbD).map (·.2)

/-- R174: the error of a status after clearing the bits in `excl`. -/
def r1ErrorExcept (p : R1Positions) (excl status : Word) : Option ErrorKind := r1Error p (status &&& ~~~excl)

/-- CURRENT_STATE (R65, R142). -/
def currentState (p : R1Positions) (status : Word) : BitVec 4 := status.extractLsb' p.currentState 4

/-- The card is in Transfer state (R142). -/
def inTran (p : R1Positions) (status : Word) : Bool := decide (currentState p status = 4#4)

/-- R316: an OutOfRange-only status is tolerated when the burst reaches the card's last sector. -/
def r1ErrorLast (p : R1Positions) (last : Bool) (status : Word) : Option ErrorKind :=
  if last ∧ status &&& r1ErrMask p = bit p.outOfRange then none else r1Error p status

/-- R145. -/
def sts2Table (p : Sts2Positions) : List (Nat × ErrorKind) :=
  [(p.illegalAccess, .hostIllegalAccess), (p.responseTimeout, .timeoutCommand), (p.bufferUnderrun, .hostBufferUnderrun),
   (p.bufferOverrun, .hostBufferOverrun), (p.dataTimeout, .timeoutData), (p.endBitError, .hostEndBitError),
   (p.crcError, .hostCrcError), (p.commandError, .hostCommandError)]

/-- R145: the highest error bit that is set decides. -/
def sts2Error (p : Sts2Positions) (v : Sts2) : Option ErrorKind := (highestSet (sts2Table p) v.getLsbD).map (·.2)

/-- CBSY (R66, R69). -/
def commandBusy (p : Sts2Positions) (v : Sts2) : Bool := v.getLsbD p.commandBusy

/-- R146: not busy and the clock divider enabled. -/
def busyReady (p : Sts2Positions) (v : Sts2) : Bool := !v.getLsbD p.commandBusy && v.getLsbD p.clockDividerOn

/-- R165: an STS2 error bit first, then a wait that timed out. -/
def classify (p : Sts2Positions) (v : Sts2) (arrived : Bool) : Option ErrorKind :=
  match sts2Error p v with
  | some e => some e
  | none => if arrived then none else some .timeoutHost

/-- R49: without card detection `card_present` reads 1 always. -/
def cardPresent (s : State) : Bool := if s.cfg.cardDetectSupported then s.h.cardPresent else true

/-- R252: the write-protect flags from the pin, the CSD and the ROM draw. -/
def writeProtectFlagsOf (p : Positions) (pin rom : Bool) (csd : Image) : BitVec 4 :=
  BitVec.ofBool rom ++ BitVec.ofBool (csd.getLsbD p.permWriteProtect) ++ BitVec.ofBool (csd.getLsbD p.tmpWriteProtect) ++
    BitVec.ofBool pin

end Sys2Proof.Machine
end

