-- ==== Sys2Proof/Machine/Operands.lean ====
section
/-! DEFINITION. Operand forms: the fields of card register images (R59–R62), wire arguments (R93, R132), request
operands (R125), and the quantities computed from them (R250–R263). -/

namespace Sys2Proof.Machine

/-- The field of `width` bits from bit `lo` up, v[lo+width−1:lo], as a natural number (R23). -/
def fieldNat {w : Nat} (v : BitVec w) (lo width : Nat) : Nat := (v.extractLsb' lo width).toNat

/-! ### Request operands -/

/-- `buf = {ARG3, ARG2}[BUF_ADDR_BITS−1:0]` (R125). -/
def bufferAddress (cfg : Config) (buf : BitVec 64) : Nat := buf.toNat % 2 ^ cfg.bufAddrBits

/-! ### Wire arguments -/

/-- `{rca, 16'h0000}` (R132). -/
def rcaArg (rca : BitVec 16) : Word := rca ++ 0#16

/-- R93: the block address on a high-capacity card, the byte address otherwise, mod 2^32. -/
def wireAddr (highCapacity : Bool) (sector : Nat) : Word :=
  BitVec.ofNat 32 (if highCapacity then sector else sector * 512)

/-- The sector a card of that capacity class addresses under a data command's argument (R93 read by the card). -/
def sectorOf (highCapacity : Bool) (arg : Word) : Nat := if highCapacity then arg.toNat else arg.toNat / 512

/-- The sector a data command reads or writes: the running burst's, where the argument is its wire address (R93, R96, R291),
also where that address has wrapped; else the one the argument spells (notes/assumptions/14.md). -/
def addressedSector (highCapacity : Bool) (sector : Nat) (arg : Word) : Nat :=
  if wireAddr highCapacity sector = arg then sector else sectorOf highCapacity arg

/-- CMD8's argument `{20'h0, IF_VHS, IF_PATTERN}` (R132). -/
def ifCondArg (cfg : Config) : Word := 0#20 ++ cfg.ifVhs ++ cfg.ifPattern

/-- The OCR window of a voltage operand, `volt << 15` (R230, R234). -/
def windowArg (volt : BitVec 9) : Word := 0#8 ++ volt ++ 0#15

/-- ACMD41's argument `{1'b0, if_ok, 6'h0, zext_24(volt << 15)}` (R205, R230). -/
def opCondArg (ifOk : Bool) (volt : BitVec 9) : Word := 0#1 ++ BitVec.ofBool ifOk ++ 0#6 ++ (volt ++ 0#15)

/-- CMD4's argument `{DSR_VALUE, 16'h0}` (R190). -/
def dsrArg (cfg : Config) : Word := cfg.dsrValue ++ 0#16

/-- CMD3's argument for an MMC card, `{MMC_RCA, 16'h0}` (R132, R189). -/
def setRcaArg (cfg : Config) : Word := cfg.mmcRca ++ 0#16

/-- The register value of bytes in wire order, first byte most significant (R97, R181). -/
def bigEndian (w : Nat) (bytes : List Byte) : BitVec w :=
  BitVec.ofNat w (bytes.foldl (fun acc b => acc * 256 + b.toNat) 0)

/-! ### CSD, SCR and SD-status fields -/

/-- CSD_STRUCTURE (R60, R247). -/
def csdStructure (p : Positions) (csd : Image) : Nat := fieldNat csd p.csdStructure 2
/-- READ_BL_LEN (R60). -/
def readBlLen (p : Positions) (csd : Image) : Nat := fieldNat csd p.readBlLen 4
/-- DSR_IMP (R60). -/
def dsrImplemented (p : Positions) (csd : Image) : Bool := csd.getLsbD p.dsrImp
/-- Version-1 C_SIZE (R60). -/
def cSizeV1 (p : Positions) (csd : Image) : Nat := fieldNat csd p.cSizeV1 12
/-- C_SIZE_MULT (R60). -/
def cSizeMult (p : Positions) (csd : Image) : Nat := fieldNat csd p.cSizeMult 3
/-- Version-2 C_SIZE (R60). -/
def cSizeV2 (p : Positions) (csd : Image) : Nat := fieldNat csd p.cSizeV2 22

/-- R250. -/
def standardSectors (p : Positions) (csd : Image) : Nat :=
  ((cSizeV1 p csd + 1) * 2 ^ (cSizeMult p csd + 2) * 2 ^ readBlLen p csd) / 512

/-- R251. -/
def highCapacitySectors (p : Positions) (csd : Image) : Nat := (cSizeV2 p csd + 1) * 1024

/-- R243. -/
def sdRevision (p : Positions) (scr : BitVec 64) : Revision :=
  let sdSpec := fieldNat scr p.sdSpec 4
  if sdSpec = 0 then .r1_0x
  else if sdSpec = 1 then .r1_10
  else if sdSpec = 2 ∧ scr.getLsbD p.sdSpec3 = true then .r3_00
  else .r2_00

/-- R249: the formula for a card, or none where the structure does not fit the negotiated revision. -/
def sectorCount (p : Positions) (media : MediaKind) (revision : Revision) (csd : Image) : Option Nat :=
  if media = .mmc then some (standardSectors p csd)
  else if csdStructure p csd = 0 then some (standardSectors p csd)
  else if csdStructure p csd = 1 ∧ (revision = .r2_00 ∨ revision = .r3_00) then some (highCapacitySectors p csd)
  else none

/-- R257. -/
def wideBus (p : Positions) (host4Bit : Bool) (media : MediaKind) (scr : BitVec 64) : Bool :=
  host4Bit && decide (media = .sd) && scr.getLsbD p.fourBitBus

/-- R261, SD. -/
def speedClass (p : Positions) (sdStatus : BitVec 512) : BitVec 8 := sdStatus.extractLsb' p.speedClass 8

/-- R262, SD. -/
def protectedSectors (p : Positions) (highCapacity : Bool) (csd : Image) (sdStatus : BitVec 512) : Nat :=
  let pa := fieldNat sdStatus p.protectedArea 32
  if highCapacity then pa / 512 else (pa * 2 ^ (cSizeMult p csd + 2) * 2 ^ readBlLen p csd) / 512

/-- R263, SD. -/
def eraseSectorsSd (p : Positions) (revision : Revision) (csd : Image) (sdStatus : BitVec 512) : Nat :=
  if revision = .r1_0x ∨ revision = .r1_10 then fieldNat csd p.sectorSize 7 + 1
  else
    let au := fieldNat sdStatus p.auSize 4
    if au = 0 then 0 else 32 * 2 ^ (au - 1)

/-- R263, MMC. -/
def eraseSectorsMmc (p : Positions) (csd : Image) : Nat :=
  (fieldNat csd p.eraseGrpSize 5 + 1) * (fieldNat csd p.eraseGrpMult 5 + 1)

/-! ### Transfers -/

/-- R293: the range check, in exact natural arithmetic (R292). -/
def outOfRange (start count sectors : Nat) : Bool := decide (sectors ≤ start) || decide (sectors < start + count)

/-- R298. -/
def chooseMode (cfg : Config) (buf : Nat) : XferMode :=
  if cfg.dmaCapable ∧ buf % cfg.dmaAlign = 0 then .dma else .sw

/-- R299: bursts of 1–2 sectors use the single-block path. -/
def chooseBlockMode (n : Nat) : BlockMode := if n ≤ 2 then .single else .multi

/-- R310: the controller's automatic stop is used for a last multi-block burst of an MMC card. -/
def autoStopUsed (last : Bool) (media : MediaKind) : Bool := last && decide (media = .mmc)

end Sys2Proof.Machine
end

