-- ==== Sys2Proof/Machine/Ops.lean ====
section
/-! DEFINITION. The shared operations: the Port (R24, R70), the Command Engine (`40_command_engine.md` R160–R181), the data
phases (`42_transfer.md` R306–R309), the first-error rule (R42), the end of an operation (R383), and Error Recovery, the
block's exception: its entry and its return (`60_exceptions.md` R400–R406). -/

namespace Sys2Proof.Machine

/-! ### The Port -/

/-- A Port call as the channel makes it: its argument (R32), and the hidden state in which it is made (R455). -/
def portEvent (h : Handle) (c : PortCall) : PortEvent := ⟨h.registerBase, c, h.inFlight, h.irqMask, h.dmaState⟩

/-- The engine makes a Port call. -/
def logCall (c : PortCall) (s : State) : State := { s with log := portEvent s.h c :: s.log }

/-- `Reg(r) <- v`. -/
def writeReg (r : PortReg) (v : PortWord) (s : State) : State := logCall (.write r v) s

/-- `Reg(STS2)`: the next listed answer, else a draw. -/
def readSts2 (s : State) : Sts2 × State :=
  match s.env.sts2 with
  | v :: rest => (v, logCall (.read .sts2) { s with env.sts2 := rest })
  | [] => (Config.freeSts2 s.env.draws, logCall (.read .sts2) { s with env.draws := s.env.draws + 1 })

/-- `Reg(RSP)`: one response word. -/
def readRsp (s : State) : PortWord × State :=
  match s.env.rsp with
  | v :: rest => (v, logCall (.read .rsp) { s with env.rsp := rest })
  | [] => (Config.freeRsp s.env.draws, logCall (.read .rsp) { s with env.draws := s.env.draws + 1 })

/-- The 128-bit image of an R2 response, bit 127 first on the wire (R97, R175), in two response words, the more significant
first (R105; DESIGN CHOICE, safe, notes/assumptions/36.md). -/
def readImage (s : State) : Image × State :=
  let high := readRsp s
  let low := readRsp high.2
  (high.1 ++ low.1, low.2)

/-- The next answer for a register value or divider code that the rules only pass on. -/
def drawReg (s : State) : PortWord × State :=
  match s.env.regs with
  | v :: rest => (v, { s with env.regs := rest })
  | [] => (Config.freeReg s.env.draws, { s with env.draws := s.env.draws + 1 })

/-- `Reg(r)` for the clock-control and option registers (R68). -/
def readReg (r : PortReg) (s : State) : PortWord × State :=
  let p := drawReg s
  (p.1, logCall (.read r) p.2)

/-- The card-detect pin level (R67). -/
def readCardDetect (s : State) : Bool × State :=
  match s.env.cardDetect with
  | v :: rest => (v, logCall .cardDetectLevel { s with env.cardDetect := rest })
  | [] => (Config.freeLevel s.env.draws, logCall .cardDetectLevel { s with env.draws := s.env.draws + 1 })

/-- `wp_pin_level()` (R252). -/
def readWriteProtect (s : State) : Bool × State :=
  match s.env.writeProtect with
  | v :: rest => (v, logCall .writeProtectLevel { s with env.writeProtect := rest })
  | [] => (Config.freeLevel s.env.draws, logCall .writeProtectLevel { s with env.draws := s.env.draws + 1 })

/-- `rom_card`, a draw of the card oracle (R252). -/
def drawRom (s : State) : Bool × State :=
  match s.env.rom with
  | v :: rest => (v, { s with env.rom := rest })
  | [] => (Config.freeRom s.env.draws, { s with env.draws := s.env.draws + 1 })

/-- The bytes that `n` draws from counter `c` on give. -/
def freeBytes (c n : Nat) : List Byte := (List.range n).map fun i => Config.freeByte (c + i)

/-- `n` bytes that the card or the spec's "any value" gives: the listed ones, then free values (R96, R107, R181). -/
def drawBytes : Nat → State → List Byte × State
  | 0, s => ([], s)
  | n + 1, s =>
    match s.env.bytes with
    | b :: rest =>
      let p := drawBytes n { s with env.bytes := rest }
      (b :: p.1, p.2)
    | [] => (freeBytes s.env.draws (n + 1), { s with env.draws := s.env.draws + (n + 1) })

/-- The first delivered event of a wanted class, before the window ends; an event of another class wakes nothing (R390,
R447). `none` where the listed deliveries do not say. -/
def awaitEvent (wanted : List EventClass) : List (Option EventClass) → Option (Bool × List (Option EventClass))
  | [] => none
  | none :: rest => some (false, rest)
  | some ev :: rest => if wanted.contains ev then some (true, rest) else awaitEvent wanted rest

/-- Whether an event of a wanted class is delivered within the window (R390, R416). -/
def eventArrives (wanted : List EventClass) (s : State) : Bool × State :=
  match awaitEvent wanted s.env.events with
  | some (arrived, rest) => (arrived, { s with env.events := rest })
  | none => (Config.freeWait s.env.draws, { s with env.events := [], env.draws := s.env.draws + 1 })

/-- `lock_cpu; h.irq_mask <- classes; unlock_cpu` (R115). -/
def setMask (classes : List EventClass) (s : State) : State :=
  let t := logCall .lockCpu s
  logCall .unlockCpu (logCall (.mask classes) { t with h.irqMask := classes })

/-- The window of a timeout class (R21, R166). -/
def window (cfg : Config) : TimeoutClass → Nat
  | .cmd => cfg.tCmd
  | .acmd => cfg.tAcmd
  | .data => cfg.tData
  | .seq => cfg.tSeq
  | .erase => cfg.tErase

/-- `wait(ev, T)` under the mask now set (R24, R390). The window bounds the wait and decides nothing else (R21). -/
def portWait (tc : TimeoutClass) (s : State) : Bool × State :=
  eventArrives s.h.irqMask (logCall (.wait s.h.irqMask (window s.cfg tc)) s)

/-- A wait bracketed by the enable and the disable of exactly its classes (R168). -/
def maskedWait (classes : List EventClass) (tc : TimeoutClass) (s : State) : Bool × State :=
  let p := portWait tc (setMask classes s)
  (p.1, setMask [] p.2)

/-- `Reg(CLK_CTRL) <- clock_divider_for(channel, f) | enable`, with `h.clock_freq <- f` (R221, R254). -/
def selectClock (f : ClockFreq) (s : State) : State :=
  let frequency := match f with
    | .fIdent => s.cfg.fIdent
    | .fXfer => s.cfg.fXfer
  let p := drawReg (logCall (.divider frequency) { s with h.clockFreq := f })
  writeReg .clkCtrl (p.1 ||| s.cfg.clkEnable) p.2

/-- Start the card clock (R221, R297). -/
def startClock (f : ClockFreq) (s : State) : State :=
  let t := selectClock f s
  { t with h.clockOn := true }

/-- Halt the card clock (R272, R330, R406). -/
def haltClock (s : State) : State :=
  let t := writeReg .clkCtrl s.cfg.clkDisabled s
  { t with h.clockOn := false }

/-- `Port: select the bus width; h.bus_width <- w` (R220, R258, R350). -/
def selectBus (w : BusWidth) (s : State) : State :=
  logCall (.busSelect w) { s with h.busWidth := w }

/-! ### Callbacks -/

/-- The dispatcher's callback (R390–R392): only this channel's card-detect events change state here. An event of another
class that arrives between waits wakes nothing (R447); the events that end waits are `Env.events`. A removed card answers
with draws, so the burst now running is one (R391, notes/assumptions/38.md). -/
def callback (ev : EventClass) (channel : Nat) (s : State) : State :=
  if s.cfg.cardDetectSupported ∧ channel = s.cfg.channel ∧ channel < s.cfg.nChannels then
    match ev with
    | .cardInsert => { s with h.cardPresent := true }
    | .cardRemove =>
      { s with h.cardPresent := false, h.compulsoryStop := true, env.cardLost := true, seq.doubtful := true }
    | .respEnd | .cmdError | .bufReady | .bufEmpty | .accessEnd | .dataError | .dmaEnd => s
  else s

/-! ### What lands inside a request -/

/-- The request words as the registers hold them (R72, R120). All six are written together, by REQUEST_STOP too (DESIGN
CHOICE, safe, notes/assumptions/37.md). -/
def latch (w : RequestWords) (s : State) : State :=
  { s with
    io.req := w.req
    io.arg0 := w.arg0
    io.arg1 := w.arg1
    io.arg2 := w.arg2
    io.arg3 := w.arg3
    io.arg4 := w.arg4 }

/-- The stop flag of REQUEST_STOP (R355). -/
def raiseStop (s : State) : State := { s with h.compulsoryStop := true }

/-- An act that lands inside a request's step. BUSY is 1 there, so that REQUEST_STOP writes neither RESULT nor BUSY
(R355). -/
def midway (m : Midway) (s : State) : State :=
  match m with
  | .callback ev channel => callback ev channel s
  | .stop arg0 arg1 arg2 arg3 arg4 => raiseStop (latch ⟨9#32, arg0, arg1, arg2, arg3, arg4⟩ s)

/-- A point inside a request's step where the order of what lands can be seen: the acts listed for it land (R439,
R451). -/
def landing (s : State) : State :=
  match s.env.during with
  | [] => s
  | acts :: rest => acts.foldl (fun t m => midway m t) { s with env.during := rest }

/-! ### The sticky error and the end of an operation -/

/-- R42: the first error recorded since the last clear stays. -/
def setError (e : ErrorKind) (s : State) : State :=
  { s with h.stickyError := some (s.h.stickyError.getD e) }

/-- R42. -/
def clearError (s : State) : State := { s with h.stickyError := none }

/-- A top-level operation begins: `h.op_active <- 1; h.phase <- p; clear_error()` (R220, R293), with the variables of
the operation before it gone. -/
def beginOp (p : Phase) (s : State) : State :=
  clearError { s with h.opActive := true, h.phase := p, seq := Sequencer.reset }

/-- The result of an operation (R25, R383): the sticky error if one is set, else the operation's own. -/
def resultOf (own : Word) (sticky : Option ErrorKind) : Word :=
  match sticky with
  | some e => errorResult e
  | none => own

/-- The end of a top-level operation: RESULT, then `h.phase <- Idle; h.op_active <- 0` (R272, R330, R383); the Transfer
Request is discarded (R57). -/
def finish (own : Word) (s : State) : State :=
  { s with
    io.result := resultOf own s.h.stickyError
    h.phase := .idle
    h.opActive := false
    h.req := none
    seq.staged := none
    seq.done := none }

/-- `fail e` (R24): record the error and return it, with no recovery. -/
def failOp (e : ErrorKind) (s : State) : State := finish okResult (setError e s)

/-! ### The Command Engine -/

/-- R161: at most `n` STS2 reads until the bus is ready. -/
def busyWait : Nat → State → Bool × State
  | 0, s => (false, s)
  | n + 1, s =>
    let p := readSts2 s
    if busyReady s.cfg.pos.sts2 p.1 then (true, p.2) else busyWait n p.2

/-- The STS2 read after a wait, kept in `h.last_sts2` and classified (R164, R165, R309). -/
def readStatus (arrived : Bool) (s : State) : Option ErrorKind × State :=
  let p := readSts2 s
  (classify s.cfg.pos.sts2 p.1 arrived, { p.2 with h.lastSts2 := p.1 })

/-- The part of `issue` after the bus is ready (R160): clear the status (R162), write argument and command, wait for the
response under the mask {RespEnd, CmdError}, then read and classify STS2. -/
def sendCommand (cmd : Indices → BitVec 6) (arg : Word) (kind : RespKind) (tc : TimeoutClass) (s : State) :
    Option ErrorKind × State :=
  let s := writeReg .arg (arg.setWidth 64) (writeReg .sts2 0#64 (writeReg .sts1 0#64 s))
  let s := logCall (.command kind (cmd s.cfg.index)) (setMask [.respEnd, .cmdError] s)
  let p := portWait tc { s with h.inFlight := true }
  let t := setMask [] p.2
  readStatus p.1 { t with h.inFlight := false }

/-- `issue(cmd, arg, kind, tc)` (R160, R161): `none` is Ok. It records no error (R167). -/
def issue (cmd : Indices → BitVec 6) (arg : Word) (kind : RespKind) (tc : TimeoutClass) (s : State) :
    Option ErrorKind × State :=
  let p := busyWait s.cfg.busySpinLimit s
  if p.1 then sendCommand cmd arg kind tc p.2 else (some .commandBusy, p.2)

/-- The R1 status into `h.last_r1` (R174), undecoded. -/
def takeR1 (s : State) : State :=
  let p := readRsp s
  { p.2 with h.lastR1 := p.1.setWidth 32 }

/-- `resp_r1(excl)` (R174). -/
def respR1 (excl : Word) (s : State) : Option ErrorKind × State :=
  let t := takeR1 s
  (r1ErrorExcept s.cfg.pos.r1 excl t.h.lastR1, t)

/-- Run `k` after an Ok, pass an error on. -/
def andThen (r : Option ErrorKind × State) (k : State → Option ErrorKind × State) : Option ErrorKind × State :=
  match r.1 with
  | some e => (some e, r.2)
  | none => k r.2

/-- `issue` of an R1 or R1b command and the check of its status (R167 "checked", R174). -/
def issueR1 (cmd : Indices → BitVec 6) (arg : Word) (kind : RespKind) (tc : TimeoutClass) (excl : Word) (s : State) :
    Option ErrorKind × State :=
  andThen (issue cmd arg kind tc s) (respR1 excl)

/-- One data-phase wait and the STS2 read after it (R181, R307, R309). -/
def dataWait (classes : List EventClass) (tc : TimeoutClass) (s : State) : Option ErrorKind × State :=
  let p := maskedWait classes tc s
  readStatus p.1 p.2

/-- `read_reg_data(nbytes, dst)` (R181): the ready wait, the copy, the access-end wait; `store` puts the bytes into dst
(notes/assumptions/11.md). -/
def readRegData (nbytes : Nat) (store : List Byte → State → State) (s : State) : Option ErrorKind × State :=
  andThen (dataWait [.bufReady, .dataError] .data s) fun t =>
    let p := drawBytes nbytes (logCall (.dataPort .read) t)
    dataWait [.accessEnd, .dataError] .cmd (store p.1 p.2)

/-- Close a wire command: its result waits for the control step, the frame is spent, and only an accepted CMD55
announces the next command (R131). -/
def endCommand (announces : Bool) (r : Option ErrorKind × State) : State :=
  let t := r.2
  { t with
    seq.staged := none
    seq.app := announces && r.1.isNone
    seq.done := some (match r.1 with
      | none => .ok
      | some e => .failed e) }

/-- Run a wire command's body unless a command is in flight (R163). -/
def command (announces : Bool) (body : State → Option ErrorKind × State) (s : State) : Result :=
  if s.h.inFlight then .fault .commandInFlight else .next (endCommand announces (body s))

/-! ### Sectors and bursts -/

/-- The bytes of a card sector; a sector the card does not have answers any bytes (R96, I11). -/
def cardSector (sector : Nat) (s : State) : List Byte × State :=
  if sector < s.h.cardSectorSize then (s.card.readBytes (sector * 512) 512, s)
  else drawBytes 512 s

/-- Move one sector between the card and the buffer (R96, R98, R99). -/
def moveSector (dir : Direction) (sector buf : Nat) (s : State) : State :=
  match dir with
  | .read =>
    let p := cardSector sector s
    { p.2 with mem := p.2.mem.writeBytes buf p.1 }
  | .write =>
    if sector < s.h.cardSectorSize then { s with card := s.card.writeBytes (sector * 512) (s.mem.readBytes buf 512) }
    else s

/-- Any bytes in the buffer from `a` on (R107, R113). -/
def spoilBuffer (a n : Nat) (s : State) : State :=
  let p := drawBytes n s
  { p.2 with mem := p.2.mem.writeBytes a p.1 }

/-- Any bytes in a card sector (R96). -/
def spoilSector (sector : Nat) (s : State) : State :=
  if sector < s.h.cardSectorSize then
    let p := drawBytes 512 s
    { p.2 with card := p.2.card.writeBytes (sector * 512) p.1 }
  else s

/-- The event of each sector on the software path (R307). -/
def sectorEvent : Direction → EventClass
  | .read => .bufReady
  | .write => .bufEmpty

/-- A data command starts, or its sectors are all copied: none of them is counted (R307, R410). -/
def forgetCopies (s : State) : State := { s with seq.copied := 0 }

/-- One more sector is copied (R307, R410). -/
def countCopy (s : State) : State := { s with seq.copied := s.seq.copied + 1 }

/-- `h.dma_state <- d` (R55). -/
def setDma (d : DmaState) (s : State) : State := { s with h.dmaState := d }

/-- The software path's sectors: per sector the event, its STS2, the copy (R307). The copies made are counted. -/
def softwareSectors (dir : Direction) (sector buf : Nat) : Nat → State → Option ErrorKind × State
  | 0, s => (none, s)
  | n + 1, s =>
    andThen (dataWait [sectorEvent dir, .dataError] .data s) fun t =>
      softwareSectors dir (sector + 1) (buf + 512) n (countCopy (moveSector dir sector buf (logCall (.dataPort dir) t)))

/-- `end_seq()` (R309). -/
def endSeq (s : State) : Option ErrorKind × State := dataWait [.accessEnd, .dataError] .seq s

/-- What the DMA engine moves for `n` sectors, visible once drained (R113). -/
def dmaSectors (dir : Direction) (sector buf : Nat) : Nat → State → State
  | 0, s => s
  | n + 1, s => dmaSectors dir (sector + 1) (buf + 512) n (moveSector dir sector buf s)

/-- A failed DMA burst leaves residual state (R55, R308). -/
def dmaFails (e : ErrorKind) (s : State) : Option ErrorKind × State :=
  (some e, setDma .residual s)

/-- `wait_dma_end` and what it decides (R308). -/
def drainDma (dir : Direction) (sector buf n : Nat) (s : State) : Option ErrorKind × State :=
  let p := eventArrives [.dmaEnd] (logCall .dmaWaitEnd s)
  if p.1 then (none, setDma .done (dmaSectors dir sector buf n p.2))
  else dmaFails .timeoutHost p.2

/-- The DMA path (R308), its assertion aside. -/
def dmaPhase (dir : Direction) (sector buf n : Nat) (s : State) : Option ErrorKind × State :=
  let p := endSeq (setDma .armed (logCall (.dmaInit buf dir) s))
  match p.1 with
  | some e => dmaFails e p.2
  | none => drainDma dir sector buf n p.2

/-- `data_phase(dir, n, b)` (R306). A software path that fails at a sector's wait keeps its count of copies (R410). -/
def dataPhase (dir : Direction) (sector buf n : Nat) (s : State) : Option ErrorKind × State :=
  match s.h.xferMode with
  | .sw => andThen (softwareSectors dir sector buf n s) fun t => endSeq (forgetCopies t)
  | .dma => dmaPhase dir sector buf n s

/-- The assertion of R308 fails. -/
def dmaBlocked (s : State) : Bool :=
  decide (s.h.xferMode = .dma) && (decide (s.h.dmaState = .armed) || decide (s.h.dmaState = .residual))

/-- A data command: issue, R1 check, data phase of `n` sectors (R305, R310). The burst gives the buffer address and, with
the argument, the card's sector. -/
def dataCommand (cmd : Indices → BitVec 6) (dir : Direction) (n : Nat) (arg : Word) (s : State) : Result :=
  let first := addressedSector s.h.highCapacity (s.seq.burst.first + s.seq.burst.k) arg
  let buf := s.seq.burst.buf + 512 * s.seq.burst.k
  let r := issueR1 cmd arg .r1 .cmd 0#32 (forgetCopies s)
  if s.h.inFlight then .fault .commandInFlight
  else if dmaBlocked s && r.1.isNone then .fault .dmaNotIdle
  else .next (endCommand false (andThen r (dataPhase dir first buf n)))

/-! ### Staging the sequencer's next command -/

/-- Spell a plain wire command for the next step, in a phase. -/
def stage (p : Phase) (cmd : Indices → BitVec 6) (arg : Word) (s : State) : State :=
  { s with h.phase := p, seq.staged := some ⟨frameHead (cmd s.cfg.index), arg⟩, seq.done := none, seq.app := false }

/-- Spell the command that the accepted CMD55 announced (R131, R180). -/
def stageAcmd (p : Phase) (cmd : Indices → BitVec 6) (arg : Word) (s : State) : State :=
  { s with h.phase := p, seq.staged := some ⟨frameHead (cmd s.cfg.index), arg⟩, seq.done := none }

/-- Every read of a card-register image: an unwritten one is a fault (R39, I17). -/
def withImage {w : Nat} (r : CardRegister w) (k : BitVec w → Result) : Result :=
  if r.written then k r.value else .fault .unwrittenImage

/-- Spell a wire command whose argument is `{h.rca, 16'h0}` (R132). -/
def stageRca (p : Phase) (cmd : Indices → BitVec 6) (s : State) : Result :=
  withImage s.h.rca fun rca => .next (stage p cmd (rcaArg rca) s)

/-- Go to a phase that issues no command of its own. -/
def enterPhase (p : Phase) (s : State) : State := { s with h.phase := p, seq.staged := none, seq.done := none }

/-! ### Error Recovery: entry and return -/

/-- R403: at most `n` STS2 reads until CBSY is 0. -/
def spinWhileBusy : Nat → State → State
  | 0, s => s
  | n + 1, s =>
    let p := readSts2 s
    if commandBusy s.cfg.pos.sts2 p.1 then spinWhileBusy n p.2 else p.2

/-- R403: abort, bounded wait, soft reset with the clock-control and option registers saved and restored. -/
def abortController (s : State) : State :=
  let s := spinWhileBusy s.cfg.busySpinLimit (writeReg .stop s.cfg.stopAbort s)
  let c := readReg .clkCtrl s
  let o := readReg .option c.2
  let s := writeReg .softRst s.cfg.softRstRelease (writeReg .softRst s.cfg.softRstAssert o.2)
  writeReg .option o.1 (writeReg .clkCtrl c.1 s)

/-- R402: the DMA engine is disabled and reset, whatever failed. R400 writes the calls' buffer and direction as "..": they
are recorded without them (DESIGN CHOICE, safe, notes/assumptions/35.md). -/
def resetDma (s : State) : State :=
  if s.cfg.dmaCapable then setDma .idle (logCall .dmaReset (logCall .dmaDisable s)) else s

/-- Steps 1 to 3 of recovery (R400–R403). -/
def recoveryEntry (s : State) : State :=
  let s := resetDma { s with h.phase := .recovery, seq.saved := s.h.stickyError, seq.polled := false }
  let s := setMask [] (writeReg .sts2 0#64 (writeReg .sts1 0#64 s))
  let p := readSts2 s
  let t := if commandBusy s.cfg.pos.sts2 p.1 then abortController p.2 else p.2
  { t with h.inFlight := false }

/-- Steps 5 and 6 of recovery, and the return of the operation (R405, R406, R383). -/
def recoveryReturn (s : State) : State :=
  finish okResult (haltClock { s with h.stickyError := s.seq.saved })

/-- Error Recovery (R400): its entry, then the status poll of step 4 when the card is selected (R404), else its return. -/
def recover (s : State) : Result :=
  let t := recoveryEntry s
  if t.seq.selected then stageRca .recovery (·.cmd13) t else .next (recoveryReturn t)

/-- Taking the block's exception, `raise e` (R24): `set_error(e)`, then recovery. -/
def raise (e : ErrorKind) (s : State) : Result := recover (setError e s)

/-- Step 4 of recovery after its CMD13, and after its CMD12, whose result is ignored (R404). -/
def afterRecoveryCommand (r : CmdResult) (s : State) : Result :=
  if s.seq.polled then .next (recoveryReturn s)
  else if r = .ok ∧ inTran s.cfg.pos.r1 s.h.lastR1 = true then .next (recoveryReturn s)
  else .next (stage .recovery (·.cmd12) 0#32 { s with seq.polled := true })

end Sys2Proof.Machine
end

