-- ==== Sys2Proof/Machine/HostOps.lean ====
section
/-! DEFINITION. The host operations of `43_host_ops.md` and the acceptance of every request (R360, R441, R432). -/

namespace Sys2Proof.Machine

/-- A request other than REQUEST_STOP is accepted only while BUSY = 0 (R360, R441) and before finalize (R432). Right after
its BUSY ← 1 a callback or a stop may land (R439, R451). -/
def accept (k : State → Result) (s : State) : Result :=
  if s.finalized then .refused .channelFinalized
  else if s.h.opActive then .refused .overlappingRequest
  else k (landing s)

/-- The fields that MOUNT's entry and UNMOUNT reset alike (R220, R350). -/
def resetCardFields (s : State) : State :=
  selectBus .one { s with
    h.mountState := .unmounted
    h.mediaKind := .unknown
    h.compulsoryStop := false
    h.rca := .holding 0#16
    h.ifOk := false
    h.highCapacity := false
    h.revision := .r1_0x
    h.cardSectorSize := 0
    h.protectSectorSize := 0
    h.eraseSectorCount := 0
    h.writeProtectFlags := 0#4
    h.transferSpeedClass := 0#8
    h.ocr := .unwritten
    h.cid := .unwritten
    h.csd := .unwritten
    h.dsr := .unwritten
    h.scr := .unwritten
    h.sdStatus := .unwritten
    h.ifCond := .unwritten }

/-- A short host operation ends with result Ok, whatever the sticky error holds (R350–R355;
notes/assumptions/12.md). -/
def endHostOp (s : State) : State :=
  { s with io.result := okResult, h.phase := .idle, h.opActive := false }

/-- R350. -/
def unmountEffect (s : State) : State := endHostOp (haltClock (resetCardFields s))

/-- UNMOUNT (R350). -/
def execUnmount (s : State) : Result := accept (fun s => .next (unmountEffect s)) s

/-- GET_GEOMETRY (R351, R126). -/
def execGetGeometry (s : State) : Result :=
  accept (fun s => .next (endHostOp { s with
    io.data0 := BitVec.ofNat 32 s.h.cardSectorSize
    io.data1 := BitVec.ofNat 32 s.h.protectSectorSize
    io.data2 := BitVec.ofNat 32 (s.h.cardSectorSize / 2 ^ 32 % 2) })) s

/-- GET_MEDIA_KIND (R352, R126). -/
def execGetMediaKind (s : State) : Result :=
  accept (fun s => .next (endHostOp { s with io.data0 := (mediaCode s.h.mediaKind).setWidth 32 })) s

/-- GET_WP (R353, R126). -/
def execGetWp (s : State) : Result :=
  accept (fun s => .next (endHostOp { s with io.data0 := s.h.writeProtectFlags.setWidth 32 })) s

/-- Sample the card-detect level into `h.card_present` where detection is supported (R49, R220, R354). -/
def samplePresence (s : State) : State :=
  if s.cfg.cardDetectSupported then
    let p := readCardDetect s
    { p.2 with h.cardPresent := p.1 }
  else s

/-- The effect of IS_PRESENT (R354, R126). A callback or a stop may land between the sample and the
answer (R439, R451). -/
def isPresentEffect (s : State) : State :=
  let t := landing (samplePresence s)
  endHostOp { t with io.data0 := (BitVec.ofBool (cardPresent t)).setWidth 32 }

/-- IS_PRESENT (R354). -/
def execIsPresent (s : State) : Result := accept (fun s => .next (isPresentEffect s)) s

/-- REQUEST_STOP (R355): accepted also while BUSY = 1, and then it writes neither RESULT nor BUSY. -/
def execRequestStop (s : State) : Result :=
  if s.finalized then .refused .channelFinalized
  else if s.h.opActive then .next (raiseStop s)
  else .next { raiseStop s with io.result := okResult }

/-- LOCK_UNLOCK (R357): "The model refuses LOCK_UNLOCK: no step is given to it". -/
def execLockUnlock (_op : Word) (_pwBuf : BitVec 64) (_pwLen : Word) (_s : State) : Result :=
  .refused .lockUnlockNotSpecified

/-- STANDBY (R359): refused by the spec. -/
def execStandby (_s : State) : Result := .refused .standbyNotSpecified

/-- ACTIVE (R359): refused by the spec. -/
def execActive (_s : State) : Result := .refused .activeNotSpecified

/-- RESERVED_REQUEST (R122, R442): refused by the spec. -/
def execReservedRequest (word : Word) (_s : State) : Result := .refused (.reservedRequest word)

end Sys2Proof.Machine
end

