-- ==== Sys2Proof/Machine/Mount.lean ====
section
/-! DEFINITION. MOUNT and the phases of the mount sequencer (`41_mount.md`): each function is what the sequencer does with
the result of the phase's command, up to the next command it stages or the end of the operation. -/

namespace Sys2Proof.Machine

/-- `reset_idle()` begins: RESET_ATTEMPTS attempts, counted afresh (R223, R229). -/
def startReset (resume : ResetResume) (s : State) : State :=
  stage .mReset (·.cmd0) 0#32 { s with seq.left := s.cfg.resetAttempts, seq.resume := resume }

/-- A MOUNT finds the card as it is: what was removed or without power before counts no more, unless it still has none
(R433, R436; notes/assumptions/38.md). -/
def findCard (s : State) : State := { s with env.cardLost := !s.env.powered }

/-- R220, with the presence check of R277 and the clock start of R221. A callback or a stop may land between the sample and
the check (R439, R451). -/
def mountEntry (hostV2 : Bool) (volt : BitVec 9) (s : State) : State :=
  let t := landing (samplePresence (resetCardFields (findCard (beginOp .mReset s))))
  if cardPresent t then startReset .toIfCond (startClock .fIdent { t with seq.hostV2 := hostV2, seq.volt := volt })
  else failOp .noCard t

/-- MOUNT (R220). -/
def execMount (hostV2 : Bool) (volt : BitVec 9) (s : State) : Result :=
  accept (fun s => .next (mountEntry hostV2 volt s)) s

/-! ### Operating-condition negotiation -/

/-- The SD probe begins: at most OCR_POLL_LIMIT iterations of CMD55 and ACMD41 (R230). -/
def startOcrSd (s : State) : Result := stageRca .mOcrSd (·.cmd55) { s with seq.left := s.cfg.ocrPollLimit }

/-- The MMC probe begins: at most OCR_POLL_LIMIT CMD1s (R234). -/
def startOcrMmc (s : State) : State :=
  stage .mOcrMmc (·.cmd1) (windowArg s.seq.volt) { s with seq.left := s.cfg.ocrPollLimit }

/-- The reset sequence reached Idle (R225, R226, R233). -/
def idleReached (s : State) : Result :=
  match s.seq.resume with
  | .toIfCond =>
    if s.seq.hostV2 then .next (stage .mIfCond (·.cmd8) (ifCondArg s.cfg) s)
    else startOcrSd { s with h.ifOk := false }
  | .toOcrSd => startOcrSd s
  | .toOcrMmc => .next (startOcrMmc s)

/-- M_Reset after a CMD0 (R223): the last attempt's failure is fatal. -/
def afterReset (r : CmdResult) (s : State) : Result :=
  match r with
  | .ok => idleReached s
  | .failed e =>
    if s.seq.left ≤ 1 then raise e s
    else .next (stage .mReset (·.cmd0) 0#32 { s with seq.left := s.seq.left - 1 })

/-- M_IfCond after CMD8: a non-response is a legacy card (R226), an R7 is checked, the echo first (R227, R228). -/
def afterIfCond (r : CmdResult) (s : State) : Result :=
  match r with
  | .failed _ => .next (startReset .toOcrSd { s with h.ifOk := false })
  | .ok =>
    withImage s.h.ifCond fun v =>
      if v.extractLsb' s.cfg.pos.r7Echo 8 ≠ s.cfg.ifPattern then raise .interfaceConditionEcho s
      else if v.extractLsb' s.cfg.pos.r7Voltage 4 ≠ s.cfg.ifVhs then raise .interfaceConditionVersion s
      else startOcrSd { s with h.ifOk := true }

/-- The short wait between polls (R230): no effect in an untimed model (D50). -/
def pollDelay (s : State) : State := logCall (.delay s.cfg.ocrPollWait) s

/-- M_OcrSd after CMD55 or ACMD41 (R230–R232). -/
def afterOcrSd (r : CmdResult) (s : State) : Result :=
  match r with
  | .failed _ => .next (startReset .toOcrMmc s)
  | .ok =>
    if s.seq.app then .next (stageAcmd .mOcrSd (·.acmd41) (opCondArg s.h.ifOk s.seq.volt) s)
    else withImage s.h.ocr fun ocr =>
        if ocr.getLsbD s.cfg.pos.ocrReady then .next (stage .mCid (·.cmd2) 0#32 { s with h.mediaKind := .sd })
        else if s.seq.left ≤ 1 then .next (startReset .toOcrMmc (pollDelay s))
        else stageRca .mOcrSd (·.cmd55) (pollDelay { s with seq.left := s.seq.left - 1 })

/-- M_OcrMmc after CMD1 (R234–R236): every failure is UnsupportedCardType. -/
def afterOcrMmc (r : CmdResult) (s : State) : Result :=
  match r with
  | .failed _ => raise .unsupportedCardType s
  | .ok =>
    withImage s.h.ocr fun ocr =>
      if ocr.getLsbD s.cfg.pos.ocrReady then
        .next (stage .mCid (·.cmd2) 0#32 { s with h.mediaKind := .mmc, h.revision := .mmc })
      else if s.seq.left ≤ 1 then raise .unsupportedCardType (pollDelay s)
      else .next (stage .mOcrMmc (·.cmd1) (windowArg s.seq.volt) (pollDelay { s with seq.left := s.seq.left - 1 }))

/-! ### Identification, address, registers -/

/-- M_Cid after CMD2 (R237): on to M_Rca (R239, R240). -/
def afterCid (r : CmdResult) (s : State) : Result :=
  match r with
  | .failed e => raise e s
  | .ok =>
    if s.h.mediaKind = .mmc then .next (stage .mRca (·.cmd3) (setRcaArg s.cfg) s)
    else .next (stage .mRca (·.cmd3) 0#32 { s with seq.left := s.cfg.rcaAttempts })

/-- M_Rca after CMD3: only a zero SD address is retried (R239, R240). -/
def afterRca (r : CmdResult) (s : State) : Result :=
  match r with
  | .failed e => raise e s
  | .ok =>
    withImage s.h.rca fun rca =>
      if s.h.mediaKind = .mmc ∨ rca ≠ 0#16 then .next (stage .mCsd (·.cmd9) (rcaArg rca) s)
      else if s.seq.left ≤ 1 then raise .internalError s
      else .next (stage .mRca (·.cmd3) 0#32 { s with seq.left := s.seq.left - 1 })

/-- After the CSD and the DSR: the SCR for SD, the geometry for MMC (R222, R243, R244). -/
def toScr (s : State) : Result :=
  if s.h.mediaKind = .mmc then .next (enterPhase .mGeometry s) else stageRca .mScr (·.cmd55) s

/-- M_Csd after CMD9 (R241, R242). -/
def afterCsd (r : CmdResult) (s : State) : Result :=
  match r with
  | .failed e => raise e s
  | .ok =>
    withImage s.h.csd fun csd =>
      if dsrImplemented s.cfg.pos csd then .next (stage .mDsr (·.cmd4) (dsrArg s.cfg) s) else toScr s

/-- M_Dsr after CMD4 (R242). -/
def afterDsr (r : CmdResult) (s : State) : Result :=
  match r with
  | .failed e => raise e s
  | .ok => toScr s

/-- M_Scr after CMD55 or ACMD51 (R243). -/
def afterScr (r : CmdResult) (s : State) : Result :=
  match r with
  | .failed e => raise e s
  | .ok =>
    if s.seq.app then .next (stageAcmd .mScr (·.acmd51) 0#32 s)
    else withImage s.h.scr fun scr =>
      .next (enterPhase .mGeometry { s with h.revision := sdRevision s.cfg.pos scr })

/-! ### Geometry -/

/-- The pin bit of R252: sampled only where write protection is supported. -/
def sampleWriteProtect (s : State) : Bool × State :=
  if s.cfg.writeProtectSupported then readWriteProtect s else (false, s)

/-- The write-protect flags of R252. -/
def setWriteProtect (csd : Image) (s : State) : State :=
  let pin := sampleWriteProtect s
  let rom := drawRom pin.2
  { rom.2 with h.writeProtectFlags := writeProtectFlagsOf s.cfg.pos pin.1 rom.1 csd }

/-- M_Geometry (R246–R253). -/
def geometry (s : State) : Result :=
  withImage s.h.csd fun csd =>
    let t := { s with h.highCapacity := decide (s.h.mediaKind = .sd) && decide (csdStructure s.cfg.pos csd = 1) }
    match sectorCount s.cfg.pos s.h.mediaKind s.h.revision csd with
    | none => raise .registerVersionError t
    | some n => stageRca .mSelect (·.cmd7) (setWriteProtect csd { t with h.cardSectorSize := n })

/-! ### Mounting the memory area -/

/-- M_Select after CMD7 (R254, R255): the card is selected, the clock switched; a locked card ends the mount. -/
def afterSelect (r : CmdResult) (s : State) : Result :=
  match r with
  | .failed e => raise e s
  | .ok =>
    let t := selectClock .fXfer { s with seq.selected := true }
    if s.h.lastR1.getLsbD s.cfg.pos.r1.cardLocked then
      .next (finish lockedResult (haltClock { t with h.mountState := .mountedLocked }))
    else .next (stage .mBlockLen (·.cmd16) 512#32 t)

/-- R261–R264 for an MMC card. -/
def mmcTail (s : State) : Result :=
  withImage s.h.csd fun csd => .next (enterPhase .mDone { s with
    h.transferSpeedClass := 0#8
    h.protectSectorSize := 0
    h.eraseSectorCount := eraseSectorsMmc s.cfg.pos csd })

/-- After the bus width: M_ClrStatus for SD, the end for MMC (R259, R264). -/
def toClrStatus (s : State) : Result :=
  if s.h.mediaKind = .mmc then mmcTail s else stageRca .mClrStatus (·.cmd55) s

/-- M_BlockLen after CMD16 (R256, R257). -/
def afterBlockLen (r : CmdResult) (s : State) : Result :=
  match r with
  | .failed e => raise e s
  | .ok =>
    if s.cfg.host4Bit && decide (s.h.mediaKind = .sd) then
      withImage s.h.scr fun scr =>
        if wideBus s.cfg.pos s.cfg.host4Bit s.h.mediaKind scr then stageRca .mBusWidth (·.cmd55) s else toClrStatus s
    else toClrStatus s

/-- M_BusWidth after CMD55 or ACMD6 (R258). -/
def afterBusWidth (r : CmdResult) (s : State) : Result :=
  match r with
  | .failed e => raise e s
  | .ok => if s.seq.app then .next (stageAcmd .mBusWidth (·.acmd6) s.cfg.busWidthArg s) else toClrStatus s

/-- M_ClrStatus after CMD55 or ACMD42 (R259). -/
def afterClrStatus (r : CmdResult) (s : State) : Result :=
  match r with
  | .failed e => raise e s
  | .ok => if s.seq.app then .next (stageAcmd .mClrStatus (·.acmd42) 0#32 s) else stageRca .mSdStatus (·.cmd55) s

/-- R261–R263 for an SD card. -/
def sdTail (s : State) : Result :=
  withImage s.h.csd fun csd => withImage s.h.sdStatus fun st => .next (enterPhase .mDone { s with
    h.transferSpeedClass := speedClass s.cfg.pos st
    h.protectSectorSize := protectedSectors s.cfg.pos s.h.highCapacity csd st
    h.eraseSectorCount := eraseSectorsSd s.cfg.pos s.h.revision csd st })

/-- M_SdStatus after CMD55 or ACMD13 (R260). -/
def afterSdStatus (r : CmdResult) (s : State) : Result :=
  match r with
  | .failed e => raise e s
  | .ok => if s.seq.app then .next (stageAcmd .mSdStatus (·.acmd13) 0#32 s) else sdTail s

/-- M_Done (R271). -/
def mountDone (s : State) : State := finish okResult (haltClock { s with h.mountState := .mountedUnlocked })

end Sys2Proof.Machine
end

