-- ==== Sys2Proof/Machine/Transfer.lean ====
section
/-! DEFINITION. READ, WRITE and the burst loop (`42_transfer.md`). -/

namespace Sys2Proof.Machine

/-! ### The requests -/

/-- The first preconditions of R293, in their order: the first that fails, if any. -/
def accessError (s : State) : Option ErrorKind :=
  if s.h.mountState = .unmounted then some .notMounted
  else if s.h.mountState = .mountedLocked then some .cardLocked
  else if s.h.compulsoryStop then some .stopped
  else none

/-- The others, in their order (R293, R295). -/
def rangeError (dir : Direction) (start count : Nat) (s : State) : Option ErrorKind :=
  if !cardPresent s then some .noCard
  else if outOfRange start count s.h.cardSectorSize then some .outOfRange
  else if dir = .write ∧ s.h.writeProtectFlags ≠ 0#4 then some .writeProtectViolation
  else none

/-- After the preconditions (R297, R298): the request, the mode, the clock, and the burst loop's first boundary. -/
def startTransfer (dir : Direction) (start count buf len : Nat) (s : State) : State :=
  let t := startClock .fXfer (enterPhase .xBurst (beginOp .xCheck s))
  { t with
    seq.selected := true
    h.xferMode := chooseMode t.cfg buf
    h.req := some ⟨start, count, buf, len, dir, 0⟩ }

/-- `xfer` once the preconditions hold (R296–R298). -/
def admitTransfer (dir : Direction) (start count buf len : Nat) (s : State) : Result :=
  if count = 0 then .next (finish okResult (beginOp .xCheck s))
  else if 2 ^ s.cfg.bufAddrBits < buf + 512 * count then .refused .bufferOutsideMemory
  else .next (startTransfer dir start count buf len s)

/-- `xfer(dir, start, count, buf, len)` up to the burst loop (R293–R298). A callback or a stop may land between the check of
the stop flag and that of the card's presence (R439, R451). -/
def transfer (dir : Direction) (start count buf len : Nat) (s : State) : Result :=
  if len < 512 * count then .refused .shortBuffer
  else match accessError s with
    | some e => .next (failOp e (beginOp .xCheck s))
    | none =>
      let t := landing s
      match rangeError dir start count t with
      | some e => .next (failOp e (beginOp .xCheck t))
      | none => admitTransfer dir start count buf len t

/-- READ (R290). -/
def execRead (start count : Word) (buf : BitVec 64) (len : Word) (s : State) : Result :=
  accept (fun s => transfer .read start.toNat count.toNat (bufferAddress s.cfg buf) len.toNat s) s

/-- WRITE (R291). -/
def execWrite (start count : Word) (buf : BitVec 64) (len : Word) (s : State) : Result :=
  accept (fun s => transfer .write start.toNat count.toNat (bufferAddress s.cfg buf) len.toNat s) s

/-! ### The burst loop -/

/-- Run `k` on the transfer request. -/
def withRequest (k : TransferRequest → State → Result) (s : State) : Result :=
  match s.h.req with
  | none => .fault .sequencerStuck
  | some r => k r s

/-- The single-block command of a direction (R305). -/
def singleIndex : Direction → Indices → BitVec 6
  | .read => (·.cmd17)
  | .write => (·.cmd24)

/-- The multi-block command of a direction (R310). -/
def multiIndex : Direction → Indices → BitVec 6
  | .read => (·.cmd18)
  | .write => (·.cmd25)

/-- STOP (R321): record Stopped, stage the unchecked CMD12. R321 writes no phase before recovery: that h.phase is X_Stop
while this CMD12 runs, as for the CMD12 of R312, is a DESIGN CHOICE, safe (notes/assumptions/39.md). -/
def compulsoryStop (s : State) : State :=
  stage .xStop (·.cmd12) 0#32 { setError .stopped s with seq.aborting := true }

/-- `single(...)` of sector k begins (R305). -/
def startSingle (dir : Direction) (s : State) : State :=
  stage .xSingle (singleIndex dir) (wireAddr s.h.highCapacity (s.seq.burst.first + s.seq.burst.k)) s

/-- `multi(...)` begins (R310): block count, automatic stop, command. -/
def startMulti (dir : Direction) (s : State) : State :=
  let b := s.seq.burst
  let t := logCall (.autoStop (autoStopUsed b.last s.h.mediaKind)) (writeReg .blkCnt (BitVec.ofNat 64 b.n) s)
  stage .xMulti (multiIndex dir) (wireAddr s.h.highCapacity b.first) t

/-- The burst that follows `done` sectors of a request (R299). -/
def nextBurst (r : TransferRequest) (limit sectors : Nat) : Burst :=
  let n := min (r.count - r.done) limit
  ⟨r.start + r.done, n, 0, r.buf + 512 * r.done, decide (r.start + r.done + n = sectors)⟩

/-- Whether the bytes of a burst that starts now are draws: the card has gone (R391, R436), another channel is on the DMA
engine (R443), or the buffer to read into has been touched (R437). -/
def bytesInDoubt (r : TransferRequest) (s : State) : Bool :=
  s.env.cardLost || (s.env.peerDma && decide (s.h.xferMode = .dma)) || (s.seq.touched && decide (r.dir = .read))

/-- The top of the burst loop (R299, R320). -/
def burstBoundary (s : State) : Result :=
  withRequest (fun r s =>
    if r.count ≤ r.done then .next (enterPhase .xDone s)
    else if s.h.compulsoryStop then .next (compulsoryStop s)
    else
      let b := nextBurst r s.h.transferChunkLimit s.h.cardSectorSize
      let t := { s with seq.burst := b, seq.doubtful := bytesInDoubt r s, h.blockMode := chooseBlockMode b.n }
      match chooseBlockMode b.n with
      | .single => .next (startSingle r.dir t)
      | .multi => .next (startMulti r.dir t)) s

/-- The card sectors of the running burst (R299). -/
def burstSectors (s : State) : List Nat := (List.range s.seq.burst.n).map (s.seq.burst.first + ·)

/-- Any bytes in the card sectors of the running burst (R96, R106, R409). -/
def spoilSectors (s : State) : State := (burstSectors s).foldl (fun t sector => spoilSector sector t) s

/-- The sectors of a failing read burst that hold what was read: those the software path had copied when a sector's wait
failed (R307, R410), but none once the burst's bytes are in doubt (R391, R436, R437). -/
def keptSectors (s : State) : Nat := if s.seq.doubtful then 0 else s.seq.copied

/-- What a failing burst leaves: any bytes in its card sectors, and on a read any bytes in the buffer from the burst, or
from the end of its kept sectors, to the end of the request (R96, R106, R107, R409, R410; notes/assumptions/13.md). -/
def spoilBurst (r : TransferRequest) (s : State) : State :=
  match r.dir with
  | .read =>
    let start := s.seq.burst.buf + 512 * keptSectors s
    spoilBuffer start (r.buf + 512 * r.count - start) (spoilSectors s)
  | .write => spoilSectors s

/-- `raise e` inside a burst (R331). -/
def failBurst (r : TransferRequest) (e : ErrorKind) (s : State) : Result := raise e (spoilBurst r s)

/-- A burst that completes while its bytes are in doubt: any bytes, in its own part of the buffer on a read, in its card
sectors on a write (R391, R436, R437, R443). -/
def settleBurst (r : TransferRequest) (s : State) : State :=
  if s.seq.doubtful then
    match r.dir with
    | .read => spoilBuffer s.seq.burst.buf (512 * s.seq.burst.n) s
    | .write => spoilSectors s
  else s

/-- The burst is done: on to the next boundary (R299). -/
def burstDone (r : TransferRequest) (s : State) : State :=
  let t := settleBurst r s
  enterPhase .xBurst { t with h.req := some { r with done := r.done + t.seq.burst.n } }

/-- X_Single after CMD17 or CMD24 (R305). -/
def afterSingle (r : CmdResult) (s : State) : Result :=
  withRequest (fun q s =>
    match r with
    | .failed e => failBurst q e s
    | .ok => stageRca .xVerify (·.cmd13) s) s

/-- X_Multi after CMD18 or CMD25 (R310, R311). -/
def afterMulti (r : CmdResult) (s : State) : Result :=
  withRequest (fun q s =>
    match r with
    | .failed e => failBurst q e s
    | .ok =>
      if autoStopUsed s.seq.burst.last s.h.mediaKind then stageRca .xVerify (·.cmd13) s
      else .next (stage .xStop (·.cmd12) 0#32 s)) s

/-- X_Stop after CMD12: the abort of R321 goes to recovery unchecked; the stop of a burst is checked (R312). -/
def afterStop (r : CmdResult) (s : State) : Result :=
  if s.seq.aborting then recover s
  else withRequest (fun q s =>
    match r with
    | .failed e => failBurst q e s
    | .ok =>
      match r1ErrorLast s.cfg.pos.r1 s.seq.burst.last s.h.lastR1 with
      | some e => failBurst q e s
      | none => stageRca .xVerify (·.cmd13) s) s

/-- `last` of the verification: of a single-block burst only the final sector carries it (R299, R316). -/
def verifyLast (mode : BlockMode) (b : Burst) : Bool :=
  match mode with
  | .single => b.last && decide (b.k + 1 = b.n)
  | .multi => b.last

/-- What follows a verified command (R299, R310): the burst's next sector, the write count, the next burst. -/
def afterVerified (q : TransferRequest) (s : State) : Result :=
  match s.h.blockMode with
  | .single =>
    if s.seq.burst.k + 1 < s.seq.burst.n then
      .next (startSingle q.dir { s with seq.burst.k := s.seq.burst.k + 1 })
    else .next (burstDone q s)
  | .multi =>
    if q.dir = .write ∧ s.h.mediaKind = .sd then stageRca .xWrCount (·.cmd55) s else .next (burstDone q s)

/-- X_Verify after CMD13 (R315, R316). -/
def afterVerify (r : CmdResult) (s : State) : Result :=
  withRequest (fun q s =>
    match r with
    | .failed e => failBurst q e s
    | .ok =>
      match r1ErrorLast s.cfg.pos.r1 (verifyLast s.h.blockMode s.seq.burst) s.h.lastR1 with
      | some e => failBurst q e s
      | none => if inTran s.cfg.pos.r1 s.h.lastR1 then afterVerified q s else failBurst q .internalError s) s

/-- X_WrCount after CMD55 or ACMD22 (R318). -/
def afterWrCount (r : CmdResult) (s : State) : Result :=
  withRequest (fun q s =>
    match r with
    | .failed e => failBurst q e s
    | .ok =>
      if s.seq.app then .next (stageAcmd .xWrCount (·.acmd22) 0#32 s)
      else if s.seq.wrCount.toNat ≠ s.seq.burst.n then failBurst q .shortWrite s
      else .next (burstDone q s)) s

/-- DONE (R330). -/
def transferDone (s : State) : State := finish okResult (haltClock s)

end Sys2Proof.Machine
end

