-- ==== Sys2Proof/Machine/Wire.lean ====
section
/-! DEFINITION. The wire commands, one meaning each (`40_command_engine.md` R185–R207). A meaning is the whole of
`issue`, the response retrieval, the status check its rule names, its data phase and the field it writes. What the
operation does with the result is the control step's (Machine/Mount.lean, Machine/Transfer.lean, Machine/Ops.lean). The
statuses of CMD12 and CMD13 are checked by each of their uses (R194, R195). -/

namespace Sys2Proof.Machine

/-- `resp_r2(h.cid)` (R175). -/
def respCid (s : State) : Option ErrorKind × State :=
  let p := readImage s
  (none, { p.2 with h.cid := .holding p.1 })

/-- `resp_r2(h.csd)` (R175). -/
def respCsd (s : State) : Option ErrorKind × State :=
  let p := readImage s
  (none, { p.2 with h.csd := .holding p.1 })

/-- `resp_r3()` (R176). -/
def respR3 (s : State) : Option ErrorKind × State :=
  let p := readRsp s
  (none, { p.2 with h.ocr := .holding (p.1.setWidth 32) })

/-- `resp_r6()` (R177). -/
def respR6 (s : State) : Option ErrorKind × State :=
  let p := readRsp s
  (none, { p.2 with h.rca := .holding (p.1.extractLsb' s.cfg.pos.r6Rca 16) })

/-- `resp_r7()` (R178). -/
def respR7 (s : State) : Option ErrorKind × State :=
  let p := readRsp s
  (none, { p.2 with h.ifCond := .holding (p.1.setWidth 32) })

/-- `h.sd_status`, from bytes in wire order (R203). -/
def storeSdStatus (bytes : List Byte) (s : State) : State := { s with h.sdStatus := .holding (bigEndian 512 bytes) }

/-- The count of blocks written, big-endian (R204). -/
def storeWrCount (bytes : List Byte) (s : State) : State := { s with seq.wrCount := bigEndian 32 bytes }

/-- `h.scr`, from bytes in wire order (R207). -/
def storeScr (bytes : List Byte) (s : State) : State := { s with h.scr := .holding (bigEndian 64 bytes) }

/-- CMD0 GO_IDLE_STATE (R185). -/
def execCmd0 (arg : Word) (s : State) : Result :=
  command false (issue (·.cmd0) arg .none .cmd) s

/-- CMD1 SEND_OP_COND (R186). -/
def execCmd1 (arg : Word) (s : State) : Result :=
  command false (fun s => andThen (issue (·.cmd1) arg .r3 .cmd s) respR3) s

/-- CMD2 ALL_SEND_CID (R187). -/
def execCmd2 (arg : Word) (s : State) : Result :=
  command false (fun s => andThen (issue (·.cmd2) arg .r2 .cmd s) respCid) s

/-- CMD3 SEND_RELATIVE_ADDR (R188). -/
def execCmd3Sd (arg : Word) (s : State) : Result :=
  command false (fun s => andThen (issue (·.cmd3) arg .r6 .cmd s) respR6) s

/-- CMD3 SET_RELATIVE_ADDR (R189): on success h.rca is MMC_RCA. -/
def execCmd3Mmc (arg : Word) (s : State) : Result :=
  command false (fun s => andThen (issueR1 (·.cmd3) arg .r1 .cmd 0#32 s) fun t =>
    (none, { t with h.rca := .holding t.cfg.mmcRca })) s

/-- CMD4 SET_DSR (R190): on success h.dsr is DSR_VALUE. -/
def execCmd4 (arg : Word) (s : State) : Result :=
  command false (fun s => andThen (issue (·.cmd4) arg .none .cmd s) fun t =>
    (none, { t with h.dsr := .holding t.cfg.dsrValue })) s

/-- CMD7 SELECT_CARD (R191): CARD_IS_LOCKED is excluded from the check. -/
def execCmd7 (arg : Word) (s : State) : Result :=
  command false (issueR1 (·.cmd7) arg .r1b .cmd (bit s.cfg.pos.r1.cardLocked)) s

/-- CMD8 SEND_IF_COND (R192). -/
def execCmd8 (arg : Word) (s : State) : Result :=
  command false (fun s => andThen (issue (·.cmd8) arg .r7 .cmd s) respR7) s

/-- CMD9 SEND_CSD (R193). -/
def execCmd9 (arg : Word) (s : State) : Result :=
  command false (fun s => andThen (issue (·.cmd9) arg .r2 .cmd s) respCsd) s

/-- CMD12 STOP_TRANSMISSION (R194). -/
def execCmd12 (arg : Word) (s : State) : Result :=
  command false (fun s => andThen (issue (·.cmd12) arg .r1b .cmd s) fun t => (none, takeR1 t)) s

/-- CMD13 SEND_STATUS (R195). -/
def execCmd13 (arg : Word) (s : State) : Result :=
  command false (fun s => andThen (issue (·.cmd13) arg .r1 .cmd s) fun t => (none, takeR1 t)) s

/-- CMD16 SET_BLOCKLEN (R196). -/
def execCmd16 (arg : Word) (s : State) : Result :=
  command false (issueR1 (·.cmd16) arg .r1 .cmd 0#32) s

/-- CMD17 READ_SINGLE_BLOCK (R197, R305). -/
def execCmd17 (arg : Word) (s : State) : Result := dataCommand (·.cmd17) .read 1 arg s

/-- CMD18 READ_MULTIPLE_BLOCK (R198, R310). -/
def execCmd18 (arg : Word) (s : State) : Result := dataCommand (·.cmd18) .read s.seq.burst.n arg s

/-- CMD24 WRITE_BLOCK (R199, R305). -/
def execCmd24 (arg : Word) (s : State) : Result := dataCommand (·.cmd24) .write 1 arg s

/-- CMD25 WRITE_MULTIPLE_BLOCK (R200, R310). -/
def execCmd25 (arg : Word) (s : State) : Result := dataCommand (·.cmd25) .write s.seq.burst.n arg s

/-- CMD55 APP_CMD (R201, R180): accepted, it announces the next command. -/
def execCmd55 (arg : Word) (s : State) : Result :=
  command true (issueR1 (·.cmd55) arg .r1 .acmd 0#32) s

/-- ACMD6 SET_BUS_WIDTH (R202, R258). -/
def execAcmd6 (arg : Word) (s : State) : Result :=
  command false (fun s => andThen (issueR1 (·.acmd6) arg .r1 .acmd 0#32 s) fun t => (none, selectBus .four t)) s

/-- ACMD13 SD_STATUS (R203, R260). -/
def execAcmd13 (arg : Word) (s : State) : Result :=
  command false (fun s => andThen (issueR1 (·.acmd13) arg .r1 .acmd 0#32 s)
    (readRegData 64 storeSdStatus)) s

/-- ACMD22 SEND_NUM_WR_BLOCKS (R204, R318). -/
def execAcmd22 (arg : Word) (s : State) : Result :=
  command false (fun s => andThen (issueR1 (·.acmd22) arg .r1 .acmd 0#32 s)
    (readRegData 4 storeWrCount)) s

/-- ACMD41 SD_SEND_OP_COND (R205). -/
def execAcmd41 (arg : Word) (s : State) : Result :=
  command false (fun s => andThen (issue (·.acmd41) arg .r3 .acmd s) respR3) s

/-- ACMD42 SET_CLR_CARD_DETECT (R206). -/
def execAcmd42 (arg : Word) (s : State) : Result :=
  command false (issueR1 (·.acmd42) arg .r1 .acmd 0#32) s

/-- ACMD51 SEND_SCR (R207, R243). -/
def execAcmd51 (arg : Word) (s : State) : Result :=
  command false (fun s => andThen (issueR1 (·.acmd51) arg .r1 .acmd 0#32 s)
    (readRegData 8 storeScr)) s

end Sys2Proof.Machine
end

