-- ==== Sys2Proof/Machine/Dispatch.lean ====
section
/-! DEFINITION. One arm per instruction. -/

namespace Sys2Proof.Machine

def exec (i : Instr) (s : State) : Host.Outcome State Fault Refusal :=
  match i with
  | .mount hostV2 volt => Sys2Proof.Machine.execMount hostV2 volt s
  | .unmount => Sys2Proof.Machine.execUnmount s
  | .read start count buf len => Sys2Proof.Machine.execRead start count buf len s
  | .write start count buf len => Sys2Proof.Machine.execWrite start count buf len s
  | .getGeometry => Sys2Proof.Machine.execGetGeometry s
  | .getMediaKind => Sys2Proof.Machine.execGetMediaKind s
  | .getWp => Sys2Proof.Machine.execGetWp s
  | .isPresent => Sys2Proof.Machine.execIsPresent s
  | .requestStop => Sys2Proof.Machine.execRequestStop s
  | .lockUnlock op pwBuf pwLen => Sys2Proof.Machine.execLockUnlock op pwBuf pwLen s
  | .standby => Sys2Proof.Machine.execStandby s
  | .active => Sys2Proof.Machine.execActive s
  | .reservedRequest word => Sys2Proof.Machine.execReservedRequest word s
  | .cmd0 arg => Sys2Proof.Machine.execCmd0 arg s
  | .cmd1 arg => Sys2Proof.Machine.execCmd1 arg s
  | .cmd2 arg => Sys2Proof.Machine.execCmd2 arg s
  | .cmd3Sd arg => Sys2Proof.Machine.execCmd3Sd arg s
  | .cmd3Mmc arg => Sys2Proof.Machine.execCmd3Mmc arg s
  | .cmd4 arg => Sys2Proof.Machine.execCmd4 arg s
  | .cmd7 arg => Sys2Proof.Machine.execCmd7 arg s
  | .cmd8 arg => Sys2Proof.Machine.execCmd8 arg s
  | .cmd9 arg => Sys2Proof.Machine.execCmd9 arg s
  | .cmd12 arg => Sys2Proof.Machine.execCmd12 arg s
  | .cmd13 arg => Sys2Proof.Machine.execCmd13 arg s
  | .cmd16 arg => Sys2Proof.Machine.execCmd16 arg s
  | .cmd17 arg => Sys2Proof.Machine.execCmd17 arg s
  | .cmd18 arg => Sys2Proof.Machine.execCmd18 arg s
  | .cmd24 arg => Sys2Proof.Machine.execCmd24 arg s
  | .cmd25 arg => Sys2Proof.Machine.execCmd25 arg s
  | .cmd55 arg => Sys2Proof.Machine.execCmd55 arg s
  | .acmd6 arg => Sys2Proof.Machine.execAcmd6 arg s
  | .acmd13 arg => Sys2Proof.Machine.execAcmd13 arg s
  | .acmd22 arg => Sys2Proof.Machine.execAcmd22 arg s
  | .acmd41 arg => Sys2Proof.Machine.execAcmd41 arg s
  | .acmd42 arg => Sys2Proof.Machine.execAcmd42 arg s
  | .acmd51 arg => Sys2Proof.Machine.execAcmd51 arg s

end Sys2Proof.Machine
end

