-- ==== Sys2Proof/Machine/Engine.lean ====
section
/-! DEFINITION. The engine between instructions: the control step of each phase (R31, R222, R299, R400), what the outside
does (R390–R393, R430–R439), and where the next instruction comes from. -/

namespace Sys2Proof.Machine

/-! ### Control steps -/

/-- The control step of a phase whose command has completed. -/
def advanceAfter (r : CmdResult) (s : State) : Result :=
  match s.h.phase with
  | .mReset => afterReset r s
  | .mIfCond => afterIfCond r s
  | .mOcrSd => afterOcrSd r s
  | .mOcrMmc => afterOcrMmc r s
  | .mCid => afterCid r s
  | .mRca => afterRca r s
  | .mCsd => afterCsd r s
  | .mDsr => afterDsr r s
  | .mScr => afterScr r s
  | .mSelect => afterSelect r s
  | .mBlockLen => afterBlockLen r s
  | .mBusWidth => afterBusWidth r s
  | .mClrStatus => afterClrStatus r s
  | .mSdStatus => afterSdStatus r s
  | .xSingle => afterSingle r s
  | .xMulti => afterMulti r s
  | .xStop => afterStop r s
  | .xVerify => afterVerify r s
  | .xWrCount => afterWrCount r s
  | .recovery => afterRecoveryCommand r s
  | .idle | .mGeometry | .mDone | .xCheck | .xBurst | .xDone | .hostOp => .fault .sequencerStuck

/-- The control step of a phase that issues no command of its own. -/
def advanceAlone (s : State) : Result :=
  match s.h.phase with
  | .mGeometry => geometry s
  | .mDone => .next (mountDone s)
  | .xBurst => burstBoundary s
  | .xDone => .next (transferDone s)
  | .idle | .mReset | .mIfCond | .mOcrSd | .mOcrMmc | .mCid | .mRca | .mCsd | .mDsr | .mScr | .mSelect | .mBlockLen
  | .mBusWidth | .mClrStatus | .mSdStatus | .xCheck | .xSingle | .xMulti | .xStop | .xVerify | .xWrCount | .recovery
  | .hostOp => .fault .sequencerStuck

/-- The engine's own step while an operation runs and no command is staged. -/
def advance (s : State) : Result :=
  match s.seq.done with
  | some r => advanceAfter r s
  | none => advanceAlone s

/-! ### The outside -/

/-- Driver init (R430): the handle and the request interface take their reset values, the card-detect level is sampled
(R49); the memories and the card keep their contents (R431); parameters stay (R435). -/
def driverInit (s : State) : State :=
  samplePresence
    { s with h := Handle.reset s.cfg true, io := RequestIf.reset, seq := Sequencer.reset, finalized := false }

/-- Finalize (R432): UNMOUNT, then no more requests. The request interface is not written. -/
def finalize (s : State) : State :=
  { haltClock (resetCardFields s) with finalized := true }

/-- The running transfer's request, where its buffer holds an address (R294). -/
def bufferHolding (s : State) (a : Nat) : Option TransferRequest :=
  s.h.req.filter fun r => decide (r.buf ≤ a) && decide (a < r.buf + 512 * r.count)

/-- Another agent touches the running transfer's buffer: "the buffer bytes are draws" (R437), those of now, and on a read
those of the running burst and of the bursts to come. -/
def touchBuffer (r : TransferRequest) (s : State) : State :=
  let t := spoilBuffer r.buf (512 * r.count) s
  { t with seq.touched := true, seq.doubtful := t.seq.doubtful || decide (r.dir = .read) }

/-- A byte of buffer memory is stored from outside (R437; notes/assumptions/24.md). -/
def hostStore (addr : BitVec 64) (b : Byte) (s : State) : State :=
  let a := bufferAddress s.cfg addr
  match bufferHolding s a with
  | some r => touchBuffer r s
  | none => { s with mem := s.mem.writeBytes a [b] }

/-- A byte of buffer memory is read from outside: in the running transfer's buffer that touches it (R437). -/
def hostLoad (addr : BitVec 64) (s : State) : State :=
  match bufferHolding s (bufferAddress s.cfg addr) with
  | some r => touchBuffer r s
  | none => s

/-- Another channel's DMA transfer starts or ends: a burst now on the DMA path is overlapped (R443). -/
def peerTransfer (busy : Bool) (s : State) : State :=
  { s with env.peerDma := busy, seq.doubtful := s.seq.doubtful || (busy && decide (s.h.xferMode = .dma)) }

/-- The card's supply comes or goes: without it each later answer of the card is a draw (R436). -/
def supply (on : Bool) (s : State) : State :=
  if on then { s with env.powered := true }
  else { s with env.powered := false, env.cardLost := true, seq.doubtful := true }

/-- What the outside does other than a request. -/
def arrive (i : Input) (s : State) : Result :=
  match i with
  | .request _ => .next s
  | .callback ev channel _ => .next (callback ev channel s)
  | .store addr b => .next (hostStore addr b s)
  | .load addr => .next (hostLoad addr s)
  | .power on => .next (supply on s)
  | .peerDma busy => .next (peerTransfer busy s)
  | .driverInit => if s.h.opActive then .refused .resetWhileBusy else .next (driverInit s)
  | .finalize => if s.h.opActive then .refused .overlappingRequest else .next (finalize s)

/-! ### Where the next instruction comes from -/

/-- The configuration is one the model runs (R11). -/
def configured (s : State) : Bool := s.cfg.wf && chunkLimitLegal s.h.transferChunkLimit

/-- The code the next step fetches: the request the host now writes, else, when the engine moves, the wire command it has
staged. -/
def nextCode (s : State) : Option Code :=
  match s.inputs with
  | some (.request w) :: _ => some (.request w)
  | some _ :: _ => none
  | none :: _ | [] => s.seq.staged.map (.wire s.seq.app)

/-- The state a fetched instruction runs in: the slot is used, and a request's words are in the registers. -/
def fetched (s : State) : State :=
  match s.inputs with
  | some (.request w) :: rest => latch w { s with inputs := rest }
  | _ :: rest => { s with inputs := rest }
  | [] => s

/-- A step that fetches no instruction: an arrival, a control step, or nothing to do. -/
def stepAlone (s : State) : Result :=
  match s.inputs with
  | some i :: _ => arrive i (fetched s)
  | none :: _ | [] => if s.h.opActive then advance (fetched s) else .next (fetched s)

end Sys2Proof.Machine
end

