-- ==== Sys2Proof/Machine/Step.lean ====
section
/-! DEFINITION. One step of the machine. -/

namespace Sys2Proof.Machine

def step (s : State) : Host.Outcome State Fault Refusal :=
  if configured s then
    match nextCode s with
    | some code =>
      match decode s.cfg.index code with
      | .ok i => exec i (fetched s)
      | .error why => .refused (.notACommand why)
    | none => stepAlone s
  else .refused .illFormedConfiguration

/-- `s` with a table row's instruction where the next step fetches: a request is the host's next write to REQ, a wire
command is the frame the engine has staged, after an accepted CMD55 where the row needs one and with the card clock
running (R452). -/
def State.withFetchWord (s : State) (nbits w : Nat) : State :=
  match tableCode nbits w (tableApp s.cfg.index nbits w) with
  | .request words => { s with inputs := [some (.request words)], finalized := false }
  | .wire app frame => { s with inputs := [], seq.staged := some frame, seq.app := app, h.clockOn := true }

end Sys2Proof.Machine
end

