-- ==== Sys2Proof/Safety.lean ====
section
/-! DEFINITION. What the claims call a step of the engine, and a sound state: the invariant of the engine between steps. Every
clause is a rule's own sentence about the state outside a command, or says which command a phase issues and which images it
may read. -/

namespace Sys2Proof.Machine

/-- The engine's own step answers `r`: a step in which nothing arrives, whether or not something arrives later. -/
def Moves (s : State) (r : Result) : Prop :=
  (s.inputs = [] → step s = r) ∧ step { s with inputs := none :: s.inputs } = r

/-- The phases of a mount (R31). -/
def Phase.isMount : Phase → Bool
  | .mReset | .mIfCond | .mOcrSd | .mOcrMmc | .mCid | .mRca | .mCsd | .mDsr | .mScr | .mGeometry | .mSelect | .mBlockLen
  | .mBusWidth | .mClrStatus | .mSdStatus | .mDone => true
  | .idle | .xCheck | .xBurst | .xSingle | .xMulti | .xStop | .xVerify | .xWrCount | .xDone | .recovery | .hostOp => false

/-- The phases of a transfer (R31). -/
def Phase.isTransfer : Phase → Bool
  | .xCheck | .xBurst | .xSingle | .xMulti | .xStop | .xVerify | .xWrCount | .xDone => true
  | .idle | .mReset | .mIfCond | .mOcrSd | .mOcrMmc | .mCid | .mRca | .mCsd | .mDsr | .mScr | .mGeometry | .mSelect
  | .mBlockLen | .mBusWidth | .mClrStatus | .mSdStatus | .mDone | .recovery | .hostOp => false

/-- The phases that issue no command of their own. -/
def Phase.isAlone : Phase → Bool
  | .mGeometry | .mDone | .xBurst | .xDone => true
  | .idle | .mReset | .mIfCond | .mOcrSd | .mOcrMmc | .mCid | .mRca | .mCsd | .mDsr | .mScr | .mSelect | .mBlockLen
  | .mBusWidth | .mClrStatus | .mSdStatus | .xCheck | .xSingle | .xMulti | .xStop | .xVerify | .xWrCount | .recovery
  | .hostOp => false

/-- Which commands a phase issues (R222, R299, R404, R134): the engine spells no other. -/
def phaseCommand : Phase → Instr → Bool
  | .mReset, .cmd0 _ => true
  | .mIfCond, .cmd8 _ => true
  | .mOcrSd, .cmd55 _ => true
  | .mOcrSd, .acmd41 _ => true
  | .mOcrMmc, .cmd1 _ => true
  | .mCid, .cmd2 _ => true
  | .mRca, .cmd3Sd _ => true
  | .mRca, .cmd3Mmc _ => true
  | .mCsd, .cmd9 _ => true
  | .mDsr, .cmd4 _ => true
  | .mScr, .cmd55 _ => true
  | .mScr, .acmd51 _ => true
  | .mSelect, .cmd7 _ => true
  | .mBlockLen, .cmd16 _ => true
  | .mBusWidth, .cmd55 _ => true
  | .mBusWidth, .acmd6 _ => true
  | .mClrStatus, .cmd55 _ => true
  | .mClrStatus, .acmd42 _ => true
  | .mSdStatus, .cmd55 _ => true
  | .mSdStatus, .acmd13 _ => true
  | .xSingle, .cmd17 _ => true
  | .xSingle, .cmd24 _ => true
  | .xMulti, .cmd18 _ => true
  | .xMulti, .cmd25 _ => true
  | .xStop, .cmd12 _ => true
  | .xVerify, .cmd13 _ => true
  | .xWrCount, .cmd55 _ => true
  | .xWrCount, .acmd22 _ => true
  | .recovery, .cmd13 _ => true
  | .recovery, .cmd12 _ => true
  | _, _ => false

/-- The images a phase's control step reads have been written (R39, I17: no rule reads an unwritten one). -/
def imagesReady (s : State) : Prop :=
  let accepted := s.seq.done = some .ok
  match s.h.phase with
  | .mIfCond => accepted → s.h.ifCond.written
  | .mOcrSd => accepted → s.seq.app = false → s.h.ocr.written
  | .mOcrMmc => accepted → s.h.ocr.written
  | .mCsd => accepted → s.h.csd.written
  | .mDsr => s.h.csd.written
  | .mScr => s.h.csd.written ∧ (accepted → s.seq.app = false → s.h.scr.written)
  | .mGeometry | .mSelect | .mBlockLen | .mBusWidth | .mClrStatus =>
      s.h.csd.written ∧ (s.h.mediaKind ≠ .mmc → s.h.scr.written)
  | .mSdStatus => s.h.csd.written ∧ (accepted → s.seq.app = false → s.h.sdStatus.written)
  | .idle | .mReset | .mCid | .mRca | .mDone | .xCheck | .xBurst | .xSingle | .xMulti | .xStop | .xVerify | .xWrCount
  | .xDone | .recovery | .hostOp => True

/-- The invariant between steps. -/
structure Inv (s : State) : Prop where
  /-- Outside a wait the mask is empty (R54, R447). -/
  maskEmpty : s.h.irqMask = []
  /-- No command is in flight between commands (R50, R163). -/
  nothingInFlight : s.h.inFlight = false
  /-- Both memories keep their canonical form. -/
  bufferWf : s.mem.wf = true
  cardWf : s.card.wf = true
  /-- BUSY is "phase ≠ Idle" (R51). -/
  busyIff : s.h.opActive = true ↔ s.h.phase ≠ .idle
  /-- Short operations and precondition checks do not outlast a step. -/
  phaseStays : s.h.phase ≠ .xCheck ∧ s.h.phase ≠ .hostOp
  /-- An idle channel has a halted clock, no command and no request (R52, R57, R452). -/
  idleClean : s.h.opActive = false →
    s.h.clockOn = false ∧ s.seq.staged = none ∧ s.seq.done = none ∧ s.h.req = none
  /-- The clock runs while an operation runs (R452). -/
  clockRuns : s.h.opActive = true → s.h.clockOn = true
  /-- A phase that issues commands has one staged, or its result. -/
  commandOrResult : s.h.opActive = true →
    if s.h.phase.isAlone then s.seq.staged = none ∧ s.seq.done = none
    else (s.seq.staged.isSome = true ∧ s.seq.done = none) ∨ (s.seq.staged = none ∧ s.seq.done.isSome = true)
  /-- The staged command is one of its phase's (R134, R222). -/
  stagedFits : ∀ f, s.seq.staged = some f →
    ∃ i, decode s.cfg.index (.wire s.seq.app f) = .ok i ∧ phaseCommand s.h.phase i = true
  /-- No rule reads an unwritten image (R39, I17). -/
  images : imagesReady s
  /-- The relative address is written while an operation runs and while a card is mounted. -/
  addressed : s.h.phase ≠ .idle ∨ s.h.mountState ≠ .unmounted → s.h.rca.written = true
  /-- A mount runs unmounted until its end (R220, R273). -/
  mountUnmounted : s.h.phase.isMount = true → s.h.mountState = .unmounted ∧ s.h.req = none
  /-- "All read/write operations require MountedUnlocked" (R37), on a selected card with a request (R57). -/
  transferMounted : s.h.phase.isTransfer = true →
    s.h.mountState = .mountedUnlocked ∧ s.h.req.isSome = true ∧ s.seq.selected = true
  /-- The DMA engine is never left armed, and residual only until recovery (R55, R448). -/
  dmaQuiet : s.h.dmaState ≠ .armed ∧ (s.h.dmaState = .residual →
    (s.h.phase = .xSingle ∨ s.h.phase = .xMulti) ∧ ∃ e, s.seq.done = some (.failed e))
  /-- The DMA path needs DMA_CAPABLE (R101, R409). -/
  dmaOwned : s.h.dmaState ≠ .idle ∨ s.h.xferMode = .dma → s.cfg.dmaCapable = true
  /-- Recovery holds the captured error (R401). -/
  recoverySaved : s.h.phase = .recovery → s.h.stickyError.isSome = true ∧ s.seq.saved = s.h.stickyError
  /-- Outside recovery a running operation has recorded no error, but for the stop it is unwinding (R42, R321). -/
  noErrorYet : s.h.opActive = true → s.h.phase ≠ .recovery →
    s.h.stickyError = if s.seq.aborting then some .stopped else none
  /-- The abort of R321 is a CMD12 of X_Stop. -/
  abortingStops : s.seq.aborting = true → s.h.opActive = true → s.h.phase = .xStop ∨ s.h.phase = .recovery

end Sys2Proof.Machine
end

