-- ==== Sys2Proof/Certificates/Slice0/Obligations.lean ====
section
/-! DEFINITION. The statements for the provers. The names under Sys2Proof.Claims say once what several statements speak of:
the Port's answers to a command, the state after `issue`, the states of a request that ends at once. -/

namespace Sys2Proof.Claims

open Sys2Proof.Machine

/-! ### Instructions -/

/-- The wire commands of R132. -/
def isWire : Instr → Bool
  | .mount _ _ | .unmount | .read _ _ _ _ | .write _ _ _ _ | .getGeometry | .getMediaKind | .getWp | .isPresent
  | .requestStop | .lockUnlock _ _ _ | .standby | .active | .reservedRequest _ => false
  | .cmd0 _ | .cmd1 _ | .cmd2 _ | .cmd3Sd _ | .cmd3Mmc _ | .cmd4 _ | .cmd7 _ | .cmd8 _ | .cmd9 _ | .cmd12 _ | .cmd13 _
  | .cmd16 _ | .cmd17 _ | .cmd18 _ | .cmd24 _ | .cmd25 _ | .cmd55 _ | .acmd6 _ | .acmd13 _ | .acmd22 _ | .acmd41 _
  | .acmd42 _ | .acmd51 _ => true

/-- The four commands with a sector data phase (R197–R200), with their direction and their number of sectors. -/
def isData : Instr → State → Option (Direction × Nat × Word)
  | .cmd17 arg, _ => some (.read, 1, arg)
  | .cmd18 arg, s => some (.read, s.seq.burst.n, arg)
  | .cmd24 arg, _ => some (.write, 1, arg)
  | .cmd25 arg, s => some (.write, s.seq.burst.n, arg)
  | _, _ => none

/-- How each wire command is issued: its index, argument, response kind and timeout class (R132, R166, R185–R207). -/
def wireIssue : Instr → Option ((Indices → BitVec 6) × Word × RespKind × TimeoutClass)
  | .cmd0 arg => some ((·.cmd0), arg, .none, .cmd)
  | .cmd1 arg => some ((·.cmd1), arg, .r3, .cmd)
  | .cmd2 arg => some ((·.cmd2), arg, .r2, .cmd)
  | .cmd3Sd arg => some ((·.cmd3), arg, .r6, .cmd)
  | .cmd3Mmc arg => some ((·.cmd3), arg, .r1, .cmd)
  | .cmd4 arg => some ((·.cmd4), arg, .none, .cmd)
  | .cmd7 arg => some ((·.cmd7), arg, .r1b, .cmd)
  | .cmd8 arg => some ((·.cmd8), arg, .r7, .cmd)
  | .cmd9 arg => some ((·.cmd9), arg, .r2, .cmd)
  | .cmd12 arg => some ((·.cmd12), arg, .r1b, .cmd)
  | .cmd13 arg => some ((·.cmd13), arg, .r1, .cmd)
  | .cmd16 arg => some ((·.cmd16), arg, .r1, .cmd)
  | .cmd17 arg => some ((·.cmd17), arg, .r1, .cmd)
  | .cmd18 arg => some ((·.cmd18), arg, .r1, .cmd)
  | .cmd24 arg => some ((·.cmd24), arg, .r1, .cmd)
  | .cmd25 arg => some ((·.cmd25), arg, .r1, .cmd)
  | .cmd55 arg => some ((·.cmd55), arg, .r1, .acmd)
  | .acmd6 arg => some ((·.acmd6), arg, .r1, .acmd)
  | .acmd13 arg => some ((·.acmd13), arg, .r1, .acmd)
  | .acmd22 arg => some ((·.acmd22), arg, .r1, .acmd)
  | .acmd41 arg => some ((·.acmd41), arg, .r3, .acmd)
  | .acmd42 arg => some ((·.acmd42), arg, .r1, .acmd)
  | .acmd51 arg => some ((·.acmd51), arg, .r1, .acmd)
  | .mount _ _ | .unmount | .read _ _ _ _ | .write _ _ _ _ | .getGeometry | .getMediaKind | .getWp | .isPresent
  | .requestStop | .lockUnlock _ _ _ | .standby | .active | .reservedRequest _ => none

/-- The sector a data command of the running burst reads or writes. -/
def dataSector (s : State) (arg : Word) : Nat :=
  addressedSector s.h.highCapacity (s.seq.burst.first + s.seq.burst.k) arg

/-! ### The Port's answers to one command -/

/-- Port calls of this channel, newest first, each with the channel's handle (R32), made where the hidden state is `s`'s
(R455, notes/assumptions/33.md). -/
def calls (s : State) (cs : List PortCall) : List PortEvent :=
  cs.map fun c => ⟨s.h.registerBase, c, s.h.inFlight, s.h.irqMask, s.h.dmaState⟩

/-- What R163, R168, R54 and R55 say of the hidden state in which a Port call is made, as the model's log records it
(notes/assumptions/33.md). -/
structure WellMade (e : PortEvent) : Prop where
  /-- A command is written while none is in flight (R163), and one in flight is waited for and unmasked, no more (R160). -/
  command : ∀ kind index, e.call = .command kind index → e.inFlight = false
  flying : e.inFlight = true → (∃ w, e.call = .wait [.respEnd, .cmdError] w) ∨ e.call ∈ [.lockCpu, .mask [], .unlockCpu]
  /-- A wait has exactly its classes enabled (R168), and outside a wait and its brackets the mask is empty (R54). -/
  wait : ∀ classes w, e.call = .wait classes w → e.irqMask = classes
  masked : e.irqMask ≠ [] → (∃ w, e.call = .wait e.irqMask w) ∨ (∃ kind index, e.call = .command kind index) ∨
    e.call ∈ [.lockCpu, .mask e.irqMask, .unlockCpu]
  /-- A DMA engine is set up only from DmaIdle or DmaDone, and is armed until `wait_dma_end` returns (R55). -/
  dmaInit : ∀ buf dir, e.call = .dmaInit buf dir → e.dmaState = .idle ∨ e.dmaState = .done
  dmaWait : e.call = .dmaWaitEnd → e.dmaState = .armed

/-- The listed answers to one command: the STS2 values that find the bus not ready, the one that finds it ready, the one
read after the wait, and what is listed after them. -/
structure Reply where
  notReady : List Sts2
  ready : Sts2
  after : Sts2
  sts2 : List Sts2
  events : List (Option EventClass)

/-- The reply stands at the head of the Port's lists, the bus becomes ready within BUSY_SPIN_LIMIT reads (R161), and the
response wait ends with `arrived`. -/
structure Answers (s : State) (r : Reply) (arrived : Bool) : Prop where
  listed : s.env.sts2 = r.notReady ++ r.ready :: r.after :: r.sts2
  within : r.notReady.length < s.cfg.busySpinLimit
  busy : ∀ v ∈ r.notReady, busyReady s.cfg.pos.sts2 v = false
  settles : busyReady s.cfg.pos.sts2 r.ready = true
  wait : awaitEvent [.respEnd, .cmdError] s.env.events = some (arrived, r.events)

/-- No command is in flight, and `issue` answers Ok. -/
structure Accepted (s : State) (r : Reply) : Prop where
  idle : s.h.inFlight = false
  answers : Answers s r true
  clean : sts2Error s.cfg.pos.sts2 r.after = none

/-- The Port calls of `issue` in R160's order, newest first, after `reads` STS2 reads of the busy wait: each with the mask
set and `in_flight` = 1 exactly where R160 has them so. -/
def issueCalls (s : State) (cmd : Indices → BitVec 6) (arg : Word) (kind : RespKind) (tc : TimeoutClass) (reads : Nat) :
    List PortEvent :=
  let masked := { s with h.irqMask := [.respEnd, .cmdError] }
  let flying := { masked with h.inFlight := true }
  let unmasked := { flying with h.irqMask := [] }
  calls { unmasked with h.inFlight := false } [.read .sts2] ++
  calls unmasked [.unlockCpu, .mask []] ++
  calls flying [.lockCpu, .wait [.respEnd, .cmdError] (window s.cfg tc)] ++
  calls masked [.command kind (cmd s.cfg.index), .unlockCpu, .mask [.respEnd, .cmdError]] ++
  calls s ([.lockCpu, .write .arg (arg.setWidth 64), .write .sts2 0#64, .write .sts1 0#64] ++
    List.replicate reads (.read .sts2))

/-- The state after `issue` (R160): its four effects, the answers used, the calls made; nothing else. -/
def issued (s : State) (r : Reply) (cmd : Indices → BitVec 6) (arg : Word) (kind : RespKind) (tc : TimeoutClass) : State :=
  { s with
    h.irqMask := []
    h.inFlight := false
    h.lastSts2 := r.after
    env.sts2 := r.sts2
    env.events := r.events
    log := issueCalls s cmd arg kind tc (r.notReady.length + 1) ++ s.log }

/-- One response word has been read. -/
def responded (rsp : List PortWord) (t : State) : State := { t with env.rsp := rsp, log := calls t [.read .rsp] ++ t.log }

/-- The command is over: the frame is spent, the result waits for the control step, and a CMD55 has announced the next
command or no command has. -/
def ended (announced : Bool) (result : CmdResult) (t : State) : State :=
  { t with seq.staged := none, seq.app := announced, seq.done := some result }

/-! ### Data phases -/

/-- What a completed read burst leaves: the sectors' bytes in the buffer from `buf` on, and everything else as it was. -/
structure ReadDone (s t : State) (first buf n : Nat) : Prop where
  copied : ∀ k, k < n → first + k < s.h.cardSectorSize → ∀ j, j < 512 →
    t.mem.read (buf + 512 * k + j) = s.card.read ((first + k) * 512 + j)
  outside : ∀ a, a < buf ∨ buf + 512 * n ≤ a → t.mem.read a = s.mem.read a
  card : t.card = s.card

/-- What a completed write burst leaves: the buffer's bytes in the sectors, and everything else as it was. -/
structure WriteDone (s t : State) (first buf n : Nat) : Prop where
  written : ∀ k, k < n → first + k < s.h.cardSectorSize → ∀ j, j < 512 →
    t.card.read ((first + k) * 512 + j) = s.mem.read (buf + 512 * k + j)
  outside : ∀ a, a < first * 512 ∨ (first + n) * 512 ≤ a → t.card.read a = s.card.read a
  mem : t.mem = s.mem

/-- The parts of the state no data command writes. -/
structure DataFrame (s t : State) : Prop where
  cfg : t.cfg = s.cfg
  io : t.io = s.io
  inputs : t.inputs = s.inputs
  finalized : t.finalized = s.finalized
  seq : t.seq = { s.seq with staged := none, app := false, done := t.seq.done, copied := t.seq.copied }

/-! ### Requests -/

/-- A request is accepted: BUSY = 0 and the channel is not finalized. -/
def Free (s : State) : Prop := s.finalized = false ∧ s.h.opActive = false

/-- A transfer request that fails a precondition (R293): the error and the result, and no Port call. -/
def preconditionFailed (s : State) (e : ErrorKind) : State :=
  { s with
    h.opActive := false
    h.phase := .idle
    h.stickyError := some e
    h.req := none
    io.result := 0#24 ++ errorCode e
    seq := Sequencer.reset }

/-- An image marked unwritten, whatever its value: R39 and R73 leave that open, and no statement names it. -/
def unread {w : Nat} (r : CardRegister w) : CardRegister w := { r with written := false }

/-- The handle fields that MOUNT's entry and UNMOUNT write alike (R220, R350); `u` gives the values of the unwritten
images. -/
def cardForgotten (u h : Handle) : Handle :=
  { h with
    mountState := .unmounted, mediaKind := .unknown, compulsoryStop := false, cardSectorSize := 0
    protectSectorSize := 0, eraseSectorCount := 0, writeProtectFlags := 0#4, transferSpeedClass := 0#8
    rca := .holding 0#16, highCapacity := false, ifOk := false, revision := .r1_0x, ocr := unread u.ocr, cid := unread u.cid
    csd := unread u.csd, dsr := unread u.dsr, scr := unread u.scr, sdStatus := unread u.sdStatus
    ifCond := unread u.ifCond, busWidth := .one }

/-! ### Control steps -/

/-- The engine is about to use the result of the command its phase issued. -/
structure After (s : State) (p : Phase) (r : CmdResult) : Prop where
  configured : configured s = true
  active : s.h.opActive = true
  unstaged : s.seq.staged = none
  result : s.seq.done = some r
  phase : s.h.phase = p

/-- The engine is in a phase that issues no command. -/
structure Alone (s : State) (p : Phase) : Prop where
  configured : configured s = true
  active : s.h.opActive = true
  unstaged : s.seq.staged = none
  result : s.seq.done = none
  phase : s.h.phase = p

/-- The engine spells a command for its next step: the frame byte {0, 1, index} and the argument. -/
def spelled (p : Phase) (cmd : Indices → BitVec 6) (arg : Word) (app : Bool) (s : State) : State :=
  { s with
    h.phase := p
    seq.staged := some ⟨0#1 ++ 1#1 ++ cmd s.cfg.index, arg⟩
    seq.done := none
    seq.app := app }

/-- The operation has returned: RESULT, and the channel idle with its clock halted (R272, R330, R383, R406). -/
def returned (result : Word) (s : State) : State :=
  { s with
    h.clockOn := false, h.phase := .idle, h.opActive := false, h.req := none
    io.result := result
    seq.staged := none, seq.done := none
    log := calls s [.write .clkCtrl s.cfg.clkDisabled] ++ s.log }

/-- A burst is over (R299): what `settleBurst` leaves, with its sectors counted and the engine at the next boundary. -/
def burstFinished (q : TransferRequest) (s : State) : State :=
  { settleBurst q s with
    h := { s.h with phase := .xBurst, req := some { q with done := q.done + s.seq.burst.n } }
    seq := { s.seq with done := none } }

/-- The request the host writes at this step, if any. -/
def requested (s : State) : Option RequestWords :=
  match s.inputs with
  | some (.request w) :: _ => some w
  | _ => none

end Sys2Proof.Claims

open Sys2Proof Sys2Proof.Machine Sys2Proof.Claims

/-! ### Encodings -/

/-- Decoding an encoded well-formed instruction gives it back, every operand at every value (R120–R125, R130–R132). -/
def Obligations.DecodeEncodeRoundTrip : Prop :=
  ∀ t : Indices, t.wf = true → ∀ i : Instr, i.wf = true → decode t (encode t i) = .ok i

/-- What the decoder reads is well formed, and a wire frame it reads is the frame of the instruction it gives, announced
only if the frame was (R130–R132). -/
def Obligations.DecodedFramesAreKept : Prop :=
  ∀ t : Indices,
    (∀ c i, decode t c = .ok i → i.wf = true) ∧
    ∀ app f i, decode t (.wire app f) = .ok i →
      ∃ announced, encode t i = .wire announced f ∧ (announced = true → app = true)

/-- R122 and R442: which request words are reserved, and that a reserved or refused request gets no step. -/
def Obligations.RequestsWithoutAStep : Prop :=
  (∀ (t : Indices) (w : RequestWords),
    decode t (.request w) = .ok (.reservedRequest w.req) ↔
      (w.req.extractLsb' 0 8 = 0#8 ∨ 0x0D#8 ≤ w.req.extractLsb' 0 8 ∨ w.req.extractLsb' 16 16 ≠ 0#16 ∨
        (w.req.extractLsb' 0 8 ≠ 1#8 ∧ w.req.extractLsb' 8 8 ≠ 0#8) ∨
        (w.req.extractLsb' 0 8 = 1#8 ∧ w.req.extractLsb' 9 7 ≠ 0#7))) ∧
  ∀ s : State,
    (∀ word, exec (.reservedRequest word) s = .refused (.reservedRequest word)) ∧
    (∀ op buf len, exec (.lockUnlock op buf len) s = .refused .lockUnlockNotSpecified) ∧
    exec .standby s = .refused .standbyNotSpecified ∧ exec .active s = .refused .activeNotSpecified

/-- R127: the decoder of a request is total. A word that is not reserved is one of the twelve forms, told by its opcode
byte; R125: with its operands from the argument words. -/
def Obligations.RequestDecoderIsTotal : Prop :=
  ∀ (t : Indices) (w : RequestWords), ∃ i, decode t (.request w) = .ok i ∧
    ((reservedRequestWord w.req = true ∧ i = .reservedRequest w.req) ∨
      (w.req.extractLsb' 0 8 = 0x01#8 ∧ w.req.extractLsb' 9 23 = 0#23 ∧
        i = .mount (w.req.getLsbD 8) (w.arg0.extractLsb' 15 9)) ∨
      (w.req = 0x02#32 ∧ i = .unmount) ∨
      (w.req = 0x03#32 ∧ i = .read w.arg0 w.arg1 (w.arg3 ++ w.arg2) w.arg4) ∨
      (w.req = 0x04#32 ∧ i = .write w.arg0 w.arg1 (w.arg3 ++ w.arg2) w.arg4) ∨
      (w.req = 0x05#32 ∧ i = .getGeometry) ∨ (w.req = 0x06#32 ∧ i = .getMediaKind) ∨ (w.req = 0x07#32 ∧ i = .getWp) ∨
      (w.req = 0x08#32 ∧ i = .isPresent) ∨ (w.req = 0x09#32 ∧ i = .requestStop) ∨
      (w.req = 0x0A#32 ∧ i = .lockUnlock w.arg0 (w.arg2 ++ w.arg1) w.arg3) ∨
      (w.req = 0x0B#32 ∧ i = .standby) ∨ (w.req = 0x0C#32 ∧ i = .active))

/-- R131: an index with an ACMD row is that ACMD exactly after an accepted CMD55; without one it is the plain command of
the index, or no command where R132 has none. That an announced frame whose index has no ACMD row is read as if unannounced
(the third clause) is the model's own choice, on which R131 is silent (notes/assumptions/7.md). -/
def Obligations.AcmdToldByAnnouncement : Prop :=
  ∀ (t : Indices) (index : BitVec 6) (arg : Word),
    (∀ i, decodeAcmd t index arg = some i → decode t (.wire true ⟨1#2 ++ index, arg⟩) = .ok i) ∧
    (∀ i, decode t (.wire false ⟨1#2 ++ index, arg⟩) = .ok i ↔ decodeCmd t index arg = some i) ∧
    (decodeAcmd t index arg = none →
      decode t (.wire true ⟨1#2 ++ index, arg⟩) = decode t (.wire false ⟨1#2 ++ index, arg⟩))

/-- Words written out from the tables of R121, R123 and R132 (`95_test_vectors.md` 2.1). -/
def Obligations.DecodeSanityWords : Prop :=
  decode .reference (.request ⟨0x00000101#32, 0x00FF8000#32, 0#32, 0#32, 0#32, 0#32⟩) = .ok (.mount true 0x1FF#9) ∧
  decode .reference (.request ⟨0x00000003#32, 1000#32, 5#32, 0x20000004#32, 0#32, 2560#32⟩) =
    .ok (.read 1000#32 5#32 0x20000004#64 2560#32) ∧
  decode .reference (.request ⟨0x00010003#32, 0#32, 0#32, 0#32, 0#32, 0#32⟩) = .ok (.reservedRequest 0x00010003#32) ∧
  decode .reference (.wire false ⟨0b01010001#8, 51200#32⟩) = .ok (.cmd17 51200#32) ∧
  decode .reference (.wire true ⟨0b01101001#8, 0x40FF8000#32⟩) = .ok (.acmd41 0x40FF8000#32) ∧
  Config.reference.index = ⟨0#6, 1#6, 2#6, 3#6, 4#6, 7#6, 8#6, 9#6, 12#6, 13#6, 16#6, 17#6, 18#6, 24#6, 25#6, 55#6,
    6#6, 13#6, 22#6, 41#6, 42#6, 51#6⟩ ∧
  Config.reference.pos = ⟨31, 126, 80, 76, 62, 47, 48, 39, 42, 37, 13, 12, 56, 47, 50, 448, 440, 428, 16, 8, 0,
    ⟨31, 30, 29, 28, 26, 25, 23, 22, 21, 20, 19, 3, 9⟩, ⟨15, 6, 5, 4, 3, 2, 1, 0, 14, 13⟩⟩

/-! ### Status words -/

/-- R140 and R141, wherever the bits stand (R22): no listed bit, no error; otherwise the highest listed bit that is set
decides; R1_ERR_MASK is the listed bits. At the spec's positions the mask is 0xF6F80008. -/
def Obligations.HighestR1BitDecides : Prop :=
  (∀ (p : R1Positions) (s : Word),
    let rows := [(p.outOfRange, ErrorKind.outOfRange), (p.addressError, .addressError),
      (p.blockLengthError, .blockLengthError), (p.eraseError, .eraseError),
      (p.writeProtectViolation, .writeProtectViolation), (p.cardLocked, .cardLocked), (p.crc, .crc),
      (p.illegalCommand, .illegalCommand), (p.eccFailed, .eccFailed),
      (p.controllerInternalError, .controllerInternalError), (p.cardInternalError, .cardInternalError),
      (p.authenticationSequenceError, .authenticationSequenceError)]
    (rows.map (·.1)).Nodup →
    (∀ b, b < 32 → ((r1ErrMask p).getLsbD b = true ↔ b ∈ rows.map (·.1))) ∧
    (s &&& r1ErrMask p = 0#32 → r1Error p s = none) ∧
    ∀ row ∈ rows, s.getLsbD row.1 = true → (∀ b, row.1 < b → (r1ErrMask p &&& s).getLsbD b = false) →
      r1Error p s = some row.2) ∧
  r1ErrMask Config.reference.pos.r1 = 0xF6F80008#32

/-- R145, wherever the bits stand (R22): the same of the secondary status; at the spec's positions, the highest set bit of
the mask 0x807F decides. -/
def Obligations.HighestSts2BitDecides : Prop :=
  (∀ (p : Sts2Positions) (v : Sts2),
    let rows := [(p.illegalAccess, ErrorKind.hostIllegalAccess), (p.responseTimeout, .timeoutCommand),
      (p.bufferUnderrun, .hostBufferUnderrun), (p.bufferOverrun, .hostBufferOverrun), (p.dataTimeout, .timeoutData),
      (p.endBitError, .hostEndBitError), (p.crcError, .hostCrcError), (p.commandError, .hostCommandError)]
    (rows.map (·.1)).Nodup →
    ((∀ row ∈ rows, v.getLsbD row.1 = false) → sts2Error p v = none) ∧
    ∀ row ∈ rows, v.getLsbD row.1 = true → (∀ other ∈ rows, row.1 < other.1 → v.getLsbD other.1 = false) →
      sts2Error p v = some row.2) ∧
  ∀ v : Sts2, v &&& 0x807F#16 = 0#16 ↔ sts2Error Config.reference.pos.sts2 v = none

/-! ### The Command Engine -/

/-- R161: the busy wait reads STS2 until the bus is ready; where it is not ready in BUSY_SPIN_LIMIT reads it has made
exactly that many, and `issue` answers CommandBusy with no further Port call. -/
def Obligations.BusySpinIsBounded : Prop :=
  ∀ (s : State) (notReady rest : List Sts2) (cmd : Indices → BitVec 6) (arg : Word) (kind : RespKind) (tc : TimeoutClass),
    s.env.sts2 = notReady ++ rest → (∀ v ∈ notReady, busyReady s.cfg.pos.sts2 v = false) →
    (notReady.length = s.cfg.busySpinLimit →
      issue cmd arg kind tc s = (some .commandBusy,
        { s with env.sts2 := rest, log := calls s (List.replicate s.cfg.busySpinLimit (.read .sts2)) ++ s.log })) ∧
    (∀ v later, rest = v :: later → busyReady s.cfg.pos.sts2 v = true → notReady.length < s.cfg.busySpinLimit →
      busyWait s.cfg.busySpinLimit s = (true,
        { s with env.sts2 := later, log := calls s (List.replicate (notReady.length + 1) (.read .sts2)) ++ s.log }))

/-- R160, R162, R164, R165: once the bus is ready, `issue` makes exactly the calls of R160 (the pending status cleared
first), reads STS2 whether or not the wait timed out, and classifies: an STS2 error bit, then a bare timeout, then Ok. -/
def Obligations.IssueSequence : Prop :=
  ∀ (s : State) (r : Reply) (arrived : Bool) (cmd : Indices → BitVec 6) (arg : Word) (kind : RespKind) (tc : TimeoutClass),
    Answers s r arrived →
    issue cmd arg kind tc s =
      (match sts2Error s.cfg.pos.sts2 r.after with
        | some e => some e
        | none => if arrived then none else some .timeoutHost,
      issued s r cmd arg kind tc)

/-- R163: no command is issued while one is in flight, and `issue` leaves none in flight. Inside the step of a wire command
(R455) every Port call is made in a hidden state that R163, R168, R54 and R55 allow; that each call is recorded with the
hidden state in which it is made is the model's choice (DESIGN CHOICE, notes/assumptions/33.md), and the statement rests on
it. -/
def Obligations.OneCommandInFlight : Prop :=
  (∀ (i : Instr) (s : State), isWire i = true → s.h.inFlight = true → exec i s = .fault .commandInFlight) ∧
  (∀ (s : State) (cmd : Indices → BitVec 6) (arg : Word) (kind : RespKind) (tc : TimeoutClass),
    s.h.inFlight = false → (issue cmd arg kind tc s).2.h.inFlight = false) ∧
  ∀ (i : Instr) (s t : State), isWire i = true → s.h.irqMask = [] → exec i s = .next t →
    ∃ made, t.log = made ++ s.log ∧ ∀ e ∈ made, WellMade e

/-! ### Wire commands: completion -/

/-- R185, R190, and R188, R177, R192, R178: commands without an error check beyond `issue`'s. CMD0 and CMD4 have no
response, and an accepted CMD4 leaves DSR_VALUE in `h.dsr`; the SD form of CMD3 copies the published address to `h.rca`; CMD8
copies its response to `h.if_cond`. That `h.dsr` is DSR_VALUE whatever CMD4's argument is the model's choice: R190 speaks of
the argument {DSR_VALUE, 0} only (notes/assumptions/27.md). -/
def Obligations.UncheckedCommands : Prop :=
  ∀ (s : State) (r : Reply) (arg : Word), Accepted s r →
    exec (.cmd0 arg) s = .next (ended false .ok (issued s r (·.cmd0) arg .none .cmd)) ∧
    exec (.cmd4 arg) s =
      .next (ended false .ok { issued s r (·.cmd4) arg .none .cmd with h.dsr := .holding s.cfg.dsrValue }) ∧
    ∀ (v : PortWord) (rsp : List PortWord), s.env.rsp = v :: rsp →
      exec (.cmd3Sd arg) s = .next (ended false .ok
        { responded rsp (issued s r (·.cmd3) arg .r6 .cmd) with h.rca := .holding (v.extractLsb' s.cfg.pos.r6Rca 16) }) ∧
      exec (.cmd8 arg) s = .next (ended false .ok
        { responded rsp (issued s r (·.cmd8) arg .r7 .cmd) with h.ifCond := .holding (v.setWidth 32) })

/-- R186, R205, R176: CMD1 and ACMD41 copy the response to `h.ocr`. -/
def Obligations.OcrCommands : Prop :=
  ∀ (s : State) (r : Reply) (arg : Word) (v : PortWord) (rsp : List PortWord),
    Accepted s r → s.env.rsp = v :: rsp →
    exec (.cmd1 arg) s = .next (ended false .ok
      { responded rsp (issued s r (·.cmd1) arg .r3 .cmd) with h.ocr := .holding (v.setWidth 32) }) ∧
    exec (.acmd41 arg) s = .next (ended false .ok
      { responded rsp (issued s r (·.acmd41) arg .r3 .acmd) with h.ocr := .holding (v.setWidth 32) })

/-- R187, R193, R175, R105: CMD2 and CMD9 copy the 128-bit image, unchanged, in two reads of one 64-bit word each, to `h.cid`
and `h.csd`. That the more significant word is read first is the model's choice (notes/assumptions/36.md). -/
def Obligations.ImageCommands : Prop :=
  ∀ (s : State) (r : Reply) (arg : Word) (high low : PortWord) (rsp : List PortWord),
    Accepted s r → s.env.rsp = high :: low :: rsp →
    exec (.cmd2 arg) s = .next (ended false .ok
      { responded rsp (responded (low :: rsp) (issued s r (·.cmd2) arg .r2 .cmd)) with
        h.cid := .holding (high ++ low) }) ∧
    exec (.cmd9 arg) s = .next (ended false .ok
      { responded rsp (responded (low :: rsp) (issued s r (·.cmd9) arg .r2 .cmd)) with
        h.csd := .holding (high ++ low) })

/-- R174 with R189, R191, R196, R201, R202, R206: commands whose R1 is checked, on a status without an error (for CMD7
without counting CARD_IS_LOCKED). CMD55 announces the next command; the MMC form of CMD3 leaves MMC_RCA in `h.rca`; ACMD6
selects the 4-bit bus. That `h.rca` is MMC_RCA whatever CMD3's argument is the model's choice: R189 speaks of the argument
0x00010000 only (notes/assumptions/27.md). -/
def Obligations.CheckedCommandsAccepted : Prop :=
  ∀ (s : State) (r : Reply) (arg : Word) (v : PortWord) (rsp : List PortWord),
    Accepted s r → s.env.rsp = v :: rsp →
    (r1Error s.cfg.pos.r1 (v.setWidth 32) = none →
      exec (.cmd3Mmc arg) s = .next (ended false .ok
        { responded rsp (issued s r (·.cmd3) arg .r1 .cmd) with
          h.lastR1 := v.setWidth 32, h.rca := .holding s.cfg.mmcRca }) ∧
      exec (.cmd16 arg) s = .next (ended false .ok
        { responded rsp (issued s r (·.cmd16) arg .r1 .cmd) with h.lastR1 := v.setWidth 32 }) ∧
      exec (.cmd55 arg) s = .next (ended true .ok
        { responded rsp (issued s r (·.cmd55) arg .r1 .acmd) with h.lastR1 := v.setWidth 32 }) ∧
      exec (.acmd6 arg) s = .next (ended false .ok
        (let t := responded rsp (issued s r (·.acmd6) arg .r1 .acmd)
         { t with h.lastR1 := v.setWidth 32, h.busWidth := .four, log := calls t [.busSelect .four] ++ t.log })) ∧
      exec (.acmd42 arg) s = .next (ended false .ok
        { responded rsp (issued s r (·.acmd42) arg .r1 .acmd) with h.lastR1 := v.setWidth 32 })) ∧
    (r1Error s.cfg.pos.r1 (v.setWidth 32 &&& ~~~(1#32 <<< s.cfg.pos.r1.cardLocked)) = none →
      exec (.cmd7 arg) s = .next (ended false .ok
        { responded rsp (issued s r (·.cmd7) arg .r1b .cmd) with h.lastR1 := v.setWidth 32 }))

/-- R165, R174, R208: a command that fails. Where `issue` itself fails (the bus stays busy, an STS2 error, a timeout), that
error is the result of every wire command, and nothing but `issue`'s own effects happens (a data command has copied no
sector). On a status with an error bit, each
command whose R1 is checked (the data commands and the register-data commands too) ends with that error: the status is kept,
the command's own field is not written, no data phase happens and nothing is announced. -/
def Obligations.CommandFailures : Prop :=
  (∀ (i : Instr) (s u : State) (cmd : Indices → BitVec 6) (arg : Word) (kind : RespKind) (tc : TimeoutClass)
    (e : ErrorKind),
    wireIssue i = some (cmd, arg, kind, tc) → s.h.inFlight = false →
    issue cmd arg kind tc (if (isData i s).isSome then { s with seq.copied := 0 } else s) = (some e, u) →
    exec i s = .next (ended false (.failed e) u)) ∧
  ∀ (s : State) (r : Reply) (arg : Word) (v : PortWord) (rsp : List PortWord) (e : ErrorKind),
    Accepted s r → s.env.rsp = v :: rsp →
    let refusedFrom := fun (s : State) (cmd : Indices → BitVec 6) (kind : RespKind) (tc : TimeoutClass) =>
      Host.Outcome.next (ended false (.failed e)
        { responded rsp (issued s r cmd arg kind tc) with h.lastR1 := v.setWidth 32 })
    let refusedBy := refusedFrom s
    (r1Error s.cfg.pos.r1 (v.setWidth 32) = some e →
      exec (.cmd3Mmc arg) s = refusedBy (·.cmd3) .r1 .cmd ∧ exec (.cmd16 arg) s = refusedBy (·.cmd16) .r1 .cmd ∧
      exec (.cmd55 arg) s = refusedBy (·.cmd55) .r1 .acmd ∧ exec (.acmd6 arg) s = refusedBy (·.acmd6) .r1 .acmd ∧
      exec (.acmd42 arg) s = refusedBy (·.acmd42) .r1 .acmd ∧ exec (.acmd13 arg) s = refusedBy (·.acmd13) .r1 .acmd ∧
      exec (.acmd22 arg) s = refusedBy (·.acmd22) .r1 .acmd ∧ exec (.acmd51 arg) s = refusedBy (·.acmd51) .r1 .acmd ∧
      ∀ i dir n cmd, isData i s = some (dir, n, arg) → wireIssue i = some (cmd, arg, .r1, .cmd) →
        exec i s = refusedFrom { s with seq.copied := 0 } cmd .r1 .cmd) ∧
    (r1Error s.cfg.pos.r1 (v.setWidth 32 &&& ~~~(1#32 <<< s.cfg.pos.r1.cardLocked)) = some e →
      exec (.cmd7 arg) s = refusedBy (·.cmd7) .r1b .cmd)

/-- R194, R195: CMD12 and CMD13 keep the status in `h.last_r1`, whatever it says; each of their uses checks it itself. -/
def Obligations.StatusCommands : Prop :=
  ∀ (s : State) (r : Reply) (arg : Word) (v : PortWord) (rsp : List PortWord),
    Accepted s r → s.env.rsp = v :: rsp →
    exec (.cmd12 arg) s = .next (ended false .ok
      { responded rsp (issued s r (·.cmd12) arg .r1b .cmd) with h.lastR1 := v.setWidth 32 }) ∧
    exec (.cmd13 arg) s = .next (ended false .ok
      { responded rsp (issued s r (·.cmd13) arg .r1 .cmd) with h.lastR1 := v.setWidth 32 })

/-- R181, R203, R204, R207: a register-data command waits for the buffer, copies its bytes first byte most significant,
waits for the access end; the image goes to `h.sd_status`, the written-block counter, `h.scr`. -/
def Obligations.RegisterDataCommands : Prop :=
  ∀ (s : State) (r : Reply) (arg : Word) (v : PortWord) (rsp : List PortWord) (ready access : Sts2) (later : List Sts2)
    (events : List (Option EventClass)) (bytes rest : List Byte),
    Accepted s r → s.env.rsp = v :: rsp → r1Error s.cfg.pos.r1 (v.setWidth 32) = none →
    r.sts2 = ready :: access :: later → sts2Error s.cfg.pos.sts2 ready = none → sts2Error s.cfg.pos.sts2 access = none →
    r.events = some .bufReady :: some .accessEnd :: events → s.env.bytes = bytes ++ rest →
    let kept := fun t : State => t.cfg = s.cfg ∧ t.io = s.io ∧ t.mem = s.mem ∧ t.card = s.card ∧
      t.inputs = s.inputs ∧ t.finalized = s.finalized ∧ t.env.bytes = rest
    let h := { s.h with irqMask := [], inFlight := false, lastR1 := v.setWidth 32, lastSts2 := access }
    let seq := { s.seq with staged := none, app := false, done := some .ok }
    (bytes.length = 64 → ∃ t, exec (.acmd13 arg) s = .next t ∧ kept t ∧ t.seq = seq ∧
      t.h = { h with sdStatus := .holding (BitVec.ofNat 512 (Nat.ofDigits 256 (bytes.reverse.map BitVec.toNat))) }) ∧
    (bytes.length = 4 → ∃ t, exec (.acmd22 arg) s = .next t ∧ kept t ∧ t.h = h ∧
      t.seq = { seq with wrCount := BitVec.ofNat 32 (Nat.ofDigits 256 (bytes.reverse.map BitVec.toNat)) }) ∧
    (bytes.length = 8 → ∃ t, exec (.acmd51 arg) s = .next t ∧ kept t ∧ t.seq = seq ∧
      t.h = { h with scr := .holding (BitVec.ofNat 64 (Nat.ofDigits 256 (bytes.reverse.map BitVec.toNat))) })

/-- R197–R200, R307, R98: a data command on the software path, each sector with its event and a clean STS2: it completes.
On a read the sectors' bytes are in the buffer, on a write the buffer's bytes are in the sectors, and nothing else in either
memory changes. The sectors are the running burst's where the argument is their wire address (R93, R96), the buffer address
is the burst's. That a write to a sector at or above N changes no other sector is the model's choice
(notes/assumptions/15.md). -/
def Obligations.SoftwareTransfers : Prop :=
  ∀ (s : State) (i : Instr) (dir : Direction) (n : Nat) (arg : Word) (r : Reply) (v : PortWord) (rsp : List PortWord)
    (perSector later : List Sts2) (last : Sts2) (events : List (Option EventClass)),
    isData i s = some (dir, n, arg) →
    Accepted s r → s.env.rsp = v :: rsp → r1Error s.cfg.pos.r1 (v.setWidth 32) = none → s.h.xferMode = .sw →
    r.sts2 = perSector ++ last :: later → perSector.length = n → (∀ x ∈ perSector, sts2Error s.cfg.pos.sts2 x = none) →
    sts2Error s.cfg.pos.sts2 last = none →
    r.events = List.replicate n (some (match dir with | .read => EventClass.bufReady | .write => .bufEmpty)) ++
      some .accessEnd :: events →
    ∃ t, exec i s = .next t ∧ DataFrame s t ∧ t.seq.done = some .ok ∧ t.seq.copied = 0 ∧
      t.h = { s.h with irqMask := [], inFlight := false, lastR1 := v.setWidth 32, lastSts2 := last } ∧
      (match dir with
        | .read => ReadDone s t (dataSector s arg) (s.seq.burst.buf + 512 * s.seq.burst.k) n
        | .write => WriteDone s t (dataSector s arg) (s.seq.burst.buf + 512 * s.seq.burst.k) n)

/-- R308, R112, R113: a read or write command on the DMA path, armed after the R1, drained after the access end: it
completes with `dma_state` = DmaDone and the bytes moved. That a write to a sector at or above N changes no other sector is
the model's choice (notes/assumptions/15.md). -/
def Obligations.DmaTransfers : Prop :=
  ∀ (s : State) (i : Instr) (dir : Direction) (n : Nat) (arg : Word) (r : Reply) (v : PortWord) (rsp : List PortWord)
    (later : List Sts2) (last : Sts2) (events : List (Option EventClass)),
    isData i s = some (dir, n, arg) →
    Accepted s r → s.env.rsp = v :: rsp → r1Error s.cfg.pos.r1 (v.setWidth 32) = none → s.h.xferMode = .dma →
    (s.h.dmaState = .idle ∨ s.h.dmaState = .done) →
    r.sts2 = last :: later → sts2Error s.cfg.pos.sts2 last = none → r.events = some .accessEnd :: some .dmaEnd :: events →
    ∃ t, exec i s = .next t ∧ DataFrame s t ∧ t.seq.done = some .ok ∧ t.seq.copied = 0 ∧
      t.h = { s.h with
        irqMask := [], inFlight := false, lastR1 := v.setWidth 32, lastSts2 := last, dmaState := .done } ∧
      (match dir with
        | .read => ReadDone s t (dataSector s arg) (s.seq.burst.buf + 512 * s.seq.burst.k) n
        | .write => WriteDone s t (dataSector s arg) (s.seq.burst.buf + 512 * s.seq.burst.k) n)

/-- R307, R308, R309, R181, R55: a data phase that fails. On the DMA path a data command faults where the DMA engine is
armed or holds residual state, and a failing access end or a DMA end that times out leaves DmaResidual and the error; on the
software path a failing sector wait or a failing access end is the result, and the sectors before it have been copied; after
a failing sector wait alone they are counted (R410); of a register-data command either failing wait is the result, and after
the first the register is not written (that STS2 is read after both waits is the model's choice, notes/assumptions/11.md). A
wait fails with its STS2's error bit, or without one by timing out. -/
def Obligations.DataPhaseFailures : Prop :=
  ∀ (s : State) (r : Reply) (arg : Word) (v : PortWord) (rsp : List PortWord),
    Accepted s r → s.env.rsp = v :: rsp → r1Error s.cfg.pos.r1 (v.setWidth 32) = none →
    let bad := sts2Error s.cfg.pos.sts2
    let fails := fun (status : Sts2) (arrived : Bool) (e : ErrorKind) =>
      bad status = some e ∨ (bad status = none ∧ arrived = false ∧ e = .timeoutHost)
    let moved := fun (dir : Direction) (n : Nat) (t : State) =>
      match dir with
      | .read => ReadDone s t (dataSector s arg) (s.seq.burst.buf + 512 * s.seq.burst.k) n
      | .write => WriteDone s t (dataSector s arg) (s.seq.burst.buf + 512 * s.seq.burst.k) n
    let endsWith := fun (i : Instr) (e : ErrorKind) (P : State → Prop) =>
      ∃ t, exec i s = .next t ∧ t.seq.done = some (.failed e) ∧ P t
    (∀ i dir n, isData i s = some (dir, n, arg) → s.h.xferMode = .dma →
      ((s.h.dmaState = .armed ∨ s.h.dmaState = .residual) → exec i s = .fault .dmaNotIdle) ∧
      ((s.h.dmaState = .idle ∨ s.h.dmaState = .done) →
        ∀ last later arrived events, r.sts2 = last :: later →
          awaitEvent [.accessEnd, .dataError] r.events = some (arrived, events) →
          (∀ e, fails last arrived e → endsWith i e fun t => t.h.dmaState = .residual ∧ t.seq.copied = 0) ∧
          (bad last = none → arrived = true → ∀ more, awaitEvent [.dmaEnd] events = some (false, more) →
            endsWith i .timeoutHost fun t => t.h.dmaState = .residual ∧ t.seq.copied = 0))) ∧
    (∀ i dir n perSector last later events rest arrived e, isData i s = some (dir, n, arg) → s.h.xferMode = .sw →
      r.sts2 = perSector ++ last :: later → (∀ x ∈ perSector, bad x = none) → fails last arrived e →
      let ready := match dir with | .read => EventClass.bufReady | .write => .bufEmpty
      r.events = List.replicate perSector.length (some ready) ++ events →
      (perSector.length < n → awaitEvent [ready, .dataError] events = some (arrived, rest) →
        endsWith i e fun t =>
          t.h.dmaState = s.h.dmaState ∧ t.seq.copied = perSector.length ∧ moved dir perSector.length t) ∧
      (perSector.length = n → awaitEvent [.accessEnd, .dataError] events = some (arrived, rest) →
        endsWith i e fun t => t.h.dmaState = s.h.dmaState ∧ t.seq.copied = 0 ∧ moved dir n t)) ∧
    (∀ first later events arrived e, r.sts2 = first :: later → fails first arrived e →
      awaitEvent [.bufReady, .dataError] r.events = some (arrived, events) →
      endsWith (.acmd13 arg) e (fun t => t.h.sdStatus = s.h.sdStatus) ∧
      endsWith (.acmd22 arg) e (fun t => t.seq.wrCount = s.seq.wrCount) ∧
      endsWith (.acmd51 arg) e (fun t => t.h.scr = s.h.scr)) ∧
    (∀ first last later events rest arrived e, r.sts2 = first :: last :: later → bad first = none →
      fails last arrived e → awaitEvent [.bufReady, .dataError] r.events = some (true, events) →
      awaitEvent [.accessEnd, .dataError] events = some (arrived, rest) →
      endsWith (.acmd13 arg) e (fun t => t.h.scr = s.h.scr) ∧ endsWith (.acmd22 arg) e (fun t => t.h.scr = s.h.scr) ∧
      endsWith (.acmd51 arg) e (fun t => t.h.sdStatus = s.h.sdStatus))

/-! ### Wire commands: frames -/

/-- What a command without a sector data phase leaves unchanged, on every outcome: every byte of both memories, the
request interface, the sequencer but its result (and ACMD22's counter), and every handle field but those the command's
rule names (R185–R196, R201–R207) and `issue`'s own. -/
def Obligations.RegisterCommandFrame : Prop :=
  ∀ (i : Instr) (s t : State), isWire i = true → isData i s = none → exec i s = .next t →
    (∀ a, t.mem.read a = s.mem.read a) ∧ (∀ a, t.card.read a = s.card.read a) ∧
    t.mem = s.mem ∧ t.card = s.card ∧ t.io = s.io ∧ t.cfg = s.cfg ∧ t.inputs = s.inputs ∧ t.finalized = s.finalized ∧
    t.h = { s.h with
      irqMask := t.h.irqMask, inFlight := t.h.inFlight, lastSts2 := t.h.lastSts2, lastR1 := t.h.lastR1
      ocr := t.h.ocr, cid := t.h.cid, csd := t.h.csd, dsr := t.h.dsr, rca := t.h.rca, scr := t.h.scr
      sdStatus := t.h.sdStatus, ifCond := t.h.ifCond, busWidth := t.h.busWidth } ∧
    ((∀ arg, i ≠ .cmd1 arg) → (∀ arg, i ≠ .acmd41 arg) → t.h.ocr = s.h.ocr) ∧
    ((∀ arg, i ≠ .cmd2 arg) → t.h.cid = s.h.cid) ∧ ((∀ arg, i ≠ .cmd9 arg) → t.h.csd = s.h.csd) ∧
    ((∀ arg, i ≠ .cmd4 arg) → t.h.dsr = s.h.dsr) ∧
    ((∀ arg, i ≠ .cmd3Sd arg) → (∀ arg, i ≠ .cmd3Mmc arg) → t.h.rca = s.h.rca) ∧
    ((∀ arg, i ≠ .acmd51 arg) → t.h.scr = s.h.scr) ∧ ((∀ arg, i ≠ .acmd13 arg) → t.h.sdStatus = s.h.sdStatus) ∧
    ((∀ arg, i ≠ .cmd8 arg) → t.h.ifCond = s.h.ifCond) ∧ ((∀ arg, i ≠ .acmd6 arg) → t.h.busWidth = s.h.busWidth) ∧
    ((∃ arg, i = .cmd0 arg ∨ i = .cmd1 arg ∨ i = .cmd2 arg ∨ i = .cmd3Sd arg ∨ i = .cmd4 arg ∨ i = .cmd8 arg ∨
      i = .cmd9 arg ∨ i = .acmd41 arg) → t.h.lastR1 = s.h.lastR1) ∧
    t.seq = { s.seq with staged := none, app := t.seq.app, done := t.seq.done, wrCount := t.seq.wrCount } ∧
    ((∀ arg, i ≠ .acmd22 arg) → t.seq.wrCount = s.seq.wrCount) ∧ ((∀ arg, i ≠ .cmd55 arg) → t.seq.app = false)

/-- What a data command leaves unchanged, on every outcome: on a read all of the card and every buffer byte outside the
command's sectors' places, on a write all of the buffer memory and every card byte outside the addressed sectors, and
every handle field but `issue`'s own, the status and the DMA state. That a write to a sector at or above N changes no other
sector is the model's choice (notes/assumptions/15.md). -/
def Obligations.DataCommandFrame : Prop :=
  ∀ (i : Instr) (s t : State) (dir : Direction) (n : Nat) (arg : Word),
    isData i s = some (dir, n, arg) → exec i s = .next t →
    let buf := s.seq.burst.buf + 512 * s.seq.burst.k
    let first := dataSector s arg
    DataFrame s t ∧
    t.h = { s.h with
      irqMask := t.h.irqMask, inFlight := t.h.inFlight, lastSts2 := t.h.lastSts2, lastR1 := t.h.lastR1
      dmaState := t.h.dmaState } ∧
    (dir = .read → t.card = s.card ∧ ∀ a, a < buf ∨ buf + 512 * n ≤ a → t.mem.read a = s.mem.read a) ∧
    (dir = .write → t.mem = s.mem ∧ ∀ a, a < first * 512 ∨ (first + n) * 512 ≤ a → t.card.read a = s.card.read a)

/-- R453 and P2 of R119 at the level of commands: a single-block read that completes, after a single-block write of the
same sector that completed and with the card unchanged between them, gives the bytes that were written, whichever of the
two data paths each took. -/
def Obligations.ReadAfterWrite : Prop :=
  ∀ (s t u v : State) (arg : Word),
    exec (.cmd24 arg) s = .next t → t.seq.done = some .ok → u.card = t.card →
    exec (.cmd17 arg) u = .next v → v.seq.done = some .ok →
    u.h.cardSectorSize = s.h.cardSectorSize → dataSector u arg = dataSector s arg →
    dataSector s arg < s.h.cardSectorSize →
    v.mem.readBytes (u.seq.burst.buf + 512 * u.seq.burst.k) 512 =
      s.mem.readBytes (s.seq.burst.buf + 512 * s.seq.burst.k) 512

/-- R96, R107, R410, R453 (and R391, R436, R437, R443 for a burst whose bytes are in doubt; notes/assumptions/13.md): what a
failing burst leaves alone: every part of the state but the two memories and the draws, every card byte outside the burst's
sectors, and every buffer byte outside the range from the burst to the end of the request (all of them on a write). The
sectors that the software path had copied when a sector's wait failed stay in the buffer too, but where the burst's bytes are
in doubt. A burst that completes in doubt changes no more than its own part of the buffer (a read) or its own sectors (a
write), one that completes without doubt nothing. The memories stay canonical. "Any value" is the listed bytes where enough
are listed, so that each outcome is one of a run. -/
def Obligations.BurstDamageIsBounded : Prop :=
  ∀ (q : TransferRequest) (s : State),
    let first := s.seq.burst.first
    let n := s.seq.burst.n
    let buf := s.seq.burst.buf
    let damaged := buf + 512 * if s.seq.doubtful then 0 else s.seq.copied
    let only := fun t : State =>
      t = { s with mem := t.mem, card := t.card, env.bytes := t.env.bytes, env.draws := t.env.draws } ∧
      (s.mem.wf = true → t.mem.wf = true) ∧ (s.card.wf = true → t.card.wf = true) ∧
      (∀ a, a < first * 512 ∨ (first + n) * 512 ≤ a → t.card.read a = s.card.read a) ∧
      (q.dir = .write → t.mem = s.mem)
    only (spoilBurst q s) ∧
    (∀ a, a < damaged ∨ (q.buf + 512 * q.count ≤ a ∧ damaged ≤ a) → (spoilBurst q s).mem.read a = s.mem.read a) ∧
    only (settleBurst q s) ∧
    (∀ a, a < buf ∨ buf + 512 * n ≤ a → (settleBurst q s).mem.read a = s.mem.read a) ∧
    (q.dir = .read → (settleBurst q s).card = s.card) ∧
    (s.seq.doubtful = false → settleBurst q s = s) ∧
    (∀ sectors bytes rest, q.dir = .read → first + n ≤ s.h.cardSectorSize → s.env.bytes = sectors ++ bytes ++ rest →
      sectors.length = 512 * n → bytes.length = q.buf + 512 * q.count - damaged →
      (spoilBurst q s).env.bytes = rest ∧ (spoilBurst q s).env.draws = s.env.draws ∧
      (∀ k (h : k < sectors.length), (spoilBurst q s).card.read (first * 512 + k) = sectors[k]) ∧
      ∀ k (h : k < bytes.length), (spoilBurst q s).mem.read (damaged + k) = bytes[k])

/-! ### Requests -/

/-- While BUSY = 1 every request but REQUEST_STOP is refused; REQUEST_STOP is accepted (R441, R360). After finalize every
request is refused: R432 with the model's reading of it (notes/assumptions/21.md). -/
def Obligations.OverlappingRequestsRefused : Prop :=
  ∀ s : State,
    (s.h.opActive = true →
      (∀ w i, decode s.cfg.index (.request w) = .ok i → i ≠ .requestStop → ∃ why, exec i s = .refused why) ∧
      (s.finalized = false → ∃ t, exec .requestStop s = .next t ∧ t.io = s.io ∧ t.h.opActive = true)) ∧
    (s.finalized = true →
      (∀ w i, decode s.cfg.index (.request w) = .ok i → ∃ why, exec i s = .refused why) ∧
      ∀ i ∈ [Instr.unmount, .getGeometry, .getMediaKind, .getWp, .isPresent, .requestStop],
        exec i s = .refused .channelFinalized)

/-- R220, R221, R277: MOUNT on a free channel resets the handle, samples the card where detection is supported, and either
starts the clock at F_IDENT and spells the first CMD0, or fails with NoCard with no clock and no command; no callback lands
inside the step. (`env.cardLost` is the model's own, notes/assumptions/38.md.) -/
def Obligations.MountEntry : Prop :=
  ∀ (s : State) (v2 : Bool) (volt : BitVec 9), Free s → s.env.during = [] → ∃ u : Handle,
    let entered := { cardForgotten u s.h with opActive := true, phase := .mReset, stickyError := none }
    let started := fun (s' : State) (present : Bool) (divider : PortWord) =>
      { s' with
        h := { entered with cardPresent := present, clockFreq := .fIdent, clockOn := true }
        seq := { Sequencer.reset with
          staged := some ⟨0#1 ++ 1#1 ++ s.cfg.index.cmd0, 0#32⟩, left := s.cfg.resetAttempts, volt := volt, hostV2 := v2 }
        log := calls s [.write .clkCtrl (divider ||| s.cfg.clkEnable), .divider s.cfg.fIdent] ++ s'.log }
    (∀ d regs, s.env.regs = d :: regs → s.cfg.cardDetectSupported = false →
      exec (.mount v2 volt) s = .next (started { s with
        env.regs := regs, env.cardLost := !s.env.powered, log := calls s [.busSelect .one] ++ s.log } s.h.cardPresent d)) ∧
    (∀ d regs levels, s.env.regs = d :: regs → s.cfg.cardDetectSupported = true → s.env.cardDetect = true :: levels →
      exec (.mount v2 volt) s = .next (started { s with
        env.regs := regs, env.cardDetect := levels, env.cardLost := !s.env.powered
        log := calls s [.cardDetectLevel, .busSelect .one] ++ s.log } true d)) ∧
    (∀ levels, s.cfg.cardDetectSupported = true → s.env.cardDetect = false :: levels →
      exec (.mount v2 volt) s = .next { s with
        h := { cardForgotten u s.h with
          opActive := false, phase := .idle, stickyError := some .noCard, cardPresent := false, req := none }
        io.result := 0x22#32
        seq := Sequencer.reset
        env.cardDetect := levels, env.cardLost := !s.env.powered
        log := calls s [.cardDetectLevel, .busSelect .one] ++ s.log })

/-- R350: UNMOUNT resets the handle's card fields, selects the 1-bit bus, halts the clock and answers Ok; it neither reads
nor clears the sticky error, issues no command and touches no memory. -/
def Obligations.UnmountResets : Prop :=
  ∀ s : State, Free s → s.env.during = [] → ∃ u : Handle,
    exec .unmount s = .next { s with
      h := { cardForgotten u s.h with phase := .idle, opActive := false, clockOn := false }
      io.result := 0#32
      log := calls s [.write .clkCtrl s.cfg.clkDisabled, .busSelect .one] ++ s.log }

/-- R351, R352, R353, R126, R356: the getters write their DATA words and RESULT = 0 and nothing else; no Port call.
That RESULT is 0 whatever `h.sticky_error` holds is the model's choice between these rules and R25, R383
(notes/assumptions/12.md). -/
def Obligations.GettersAnswer : Prop :=
  ∀ s : State, Free s → s.env.during = [] →
    let answers := fun io : RequestIf => Host.Outcome.next { s with
      io := { io with result := 0#32 }, h.phase := .idle, h.opActive := false }
    exec .getGeometry s = answers { s.io with
      data0 := BitVec.ofNat 32 s.h.cardSectorSize
      data1 := BitVec.ofNat 32 s.h.protectSectorSize
      data2 := BitVec.ofNat 32 (s.h.cardSectorSize / 2 ^ 32 % 2) } ∧
    exec .getMediaKind s = answers { s.io with
      data0 := match s.h.mediaKind with
        | .unknown => 0x00#32
        | .mmc => 0x10#32
        | .sd => 0x20#32
        | .sdMmcMemory => 0x30#32 } ∧
    exec .getWp s = answers { s.io with data0 := s.h.writeProtectFlags.setWidth 32 }

/-- R354, R355: IS_PRESENT samples the card-detect level into `h.card_present` and DATA0, or answers 1 where detection is
unsupported; REQUEST_STOP sets the stop flag, and writes RESULT only when the channel is idle. No callback lands inside
the step. That IS_PRESENT's RESULT is 0 whatever `h.sticky_error` holds is the model's choice (notes/assumptions/12.md). -/
def Obligations.PresenceAndStop : Prop :=
  ∀ s : State, s.finalized = false → s.env.during = [] →
    (s.h.opActive = false → ∀ level levels, s.cfg.cardDetectSupported = true → s.env.cardDetect = level :: levels →
      exec .isPresent s = .next { s with
        h.cardPresent := level, h.phase := .idle, h.opActive := false
        io := { s.io with data0 := if level then 1#32 else 0#32, result := 0#32 }
        env.cardDetect := levels
        log := calls s [.cardDetectLevel] ++ s.log }) ∧
    (s.h.opActive = false → s.cfg.cardDetectSupported = false →
      exec .isPresent s = .next { s with
        h.phase := .idle, h.opActive := false, io := { s.io with data0 := 1#32, result := 0#32 } }) ∧
    (s.h.opActive = true → exec .requestStop s = .next { s with h.compulsoryStop := true }) ∧
    (s.h.opActive = false → exec .requestStop s = .next { s with h.compulsoryStop := true, io.result := 0#32 })

/-- R293, R295, R108, R332: the preconditions of READ and WRITE in their order; each failure records its error, answers it
and makes no Port call, touches no memory. With every other precondition met, OutOfRange is answered exactly for
`start ≥ N ∨ start + count > N`, in exact arithmetic (R292). No callback lands between the checks (CardDetectCallbacks says
what one does there). -/
def Obligations.TransferPreconditions : Prop :=
  ∀ (s : State) (start count len : Word) (buf : BitVec 64), Free s → s.env.during = [] →
    512 * count.toNat ≤ len.toNat →
    let readFails := fun e => exec (.read start count buf len) s = .next (preconditionFailed s e)
    let writeFails := fun e => exec (.write start count buf len) s = .next (preconditionFailed s e)
    let outside := s.h.cardSectorSize ≤ start.toNat ∨ s.h.cardSectorSize < start.toNat + count.toNat
    (s.h.mountState = .unmounted → readFails .notMounted ∧ writeFails .notMounted) ∧
    (s.h.mountState = .mountedLocked → readFails .cardLocked ∧ writeFails .cardLocked) ∧
    (s.h.mountState = .mountedUnlocked →
      (s.h.compulsoryStop = true → readFails .stopped ∧ writeFails .stopped) ∧
      (s.h.compulsoryStop = false →
        (s.cfg.cardDetectSupported = true → s.h.cardPresent = false → readFails .noCard ∧ writeFails .noCard) ∧
        (s.cfg.cardDetectSupported = false ∨ s.h.cardPresent = true →
          (outside → readFails .outOfRange ∧ writeFails .outOfRange) ∧
          (readFails .outOfRange → outside) ∧ (writeFails .outOfRange → outside) ∧
          (¬ outside → s.h.writeProtectFlags ≠ 0#4 → writeFails .writeProtectViolation))))

/-- R296, R297, R298: with every precondition met, a transfer of no sectors answers Ok with no Port call; any other starts
the clock at F_XFER, chooses the path from DMA_CAPABLE and the buffer's alignment, and enters the burst loop. One whose
buffer would pass the end of the buffer address space is refused (R91, R294; the model's choice,
notes/assumptions/16.md). -/
def Obligations.TransferStarts : Prop :=
  ∀ (s : State) (i : Instr) (dir : Direction) (start count len : Word) (buf : BitVec 64),
    (i = .read start count buf len ∧ dir = .read ∨
      i = .write start count buf len ∧ dir = .write ∧ s.h.writeProtectFlags = 0#4) →
    Free s → s.env.during = [] → 512 * count.toNat ≤ len.toNat → s.h.mountState = .mountedUnlocked →
    s.h.compulsoryStop = false → (s.cfg.cardDetectSupported = false ∨ s.h.cardPresent = true) →
    start.toNat < s.h.cardSectorSize → start.toNat + count.toNat ≤ s.h.cardSectorSize →
    let b := buf.toNat % 2 ^ s.cfg.bufAddrBits
    (count = 0#32 → exec i s = .next { s with
      h.opActive := false, h.phase := .idle, h.stickyError := none, h.req := none
      io.result := 0#32, seq := Sequencer.reset }) ∧
    (count ≠ 0#32 → 2 ^ s.cfg.bufAddrBits < b + 512 * count.toNat → exec i s = .refused .bufferOutsideMemory) ∧
    (∀ d regs, count ≠ 0#32 → b + 512 * count.toNat ≤ 2 ^ s.cfg.bufAddrBits → s.env.regs = d :: regs →
      exec i s = .next { s with
        h.opActive := true, h.phase := .xBurst, h.stickyError := none, h.clockFreq := .fXfer, h.clockOn := true
        h.xferMode := if s.cfg.dmaCapable = true ∧ b % s.cfg.dmaAlign = 0 then .dma else .sw
        h.req := some ⟨start.toNat, count.toNat, b, len.toNat, dir, 0⟩
        seq := { Sequencer.reset with selected := true }
        env.regs := regs
        log := calls s [.write .clkCtrl (d ||| s.cfg.clkEnable), .divider s.cfg.fXfer] ++ s.log })

/-- R437: a request whose buffer is shorter than `512·count` is refused, whatever else holds. -/
def Obligations.ShortBufferRefused : Prop :=
  ∀ (s : State) (start count len : Word) (buf : BitVec 64), Free s → len.toNat < 512 * count.toNat →
    exec (.read start count buf len) s = .refused .shortBuffer ∧
    exec (.write start count buf len) s = .refused .shortBuffer

/-! ### The mount sequencer -/

/-- R223: a failed CMD0 is tolerated while attempts are left, and nothing is recorded; the last attempt's error is raised.
R225, R226, R233: an accepted one goes on to the interface probe (or past it, without HOST_V2), or, after a replay, to the
probe the replay was for. -/
def Obligations.ResetAttempts : Prop :=
  (∀ (s : State) (e : ErrorKind), After s .mReset (.failed e) →
    (1 < s.seq.left → Moves s (.next (spelled .mReset (·.cmd0) 0#32 false { s with seq.left := s.seq.left - 1 }))) ∧
    (s.seq.left ≤ 1 → Moves s (raise e s))) ∧
  ∀ (s : State) (rca : BitVec 16), After s .mReset .ok → s.h.rca = .holding rca →
    let probed := { s with seq.left := s.cfg.ocrPollLimit }
    (s.seq.resume = .toIfCond → s.seq.hostV2 = true →
      Moves s (.next (spelled .mIfCond (·.cmd8) (0#20 ++ s.cfg.ifVhs ++ s.cfg.ifPattern) false s))) ∧
    (s.seq.resume = .toIfCond → s.seq.hostV2 = false →
      Moves s (.next (spelled .mOcrSd (·.cmd55) (rca ++ 0#16) false { probed with h.ifOk := false }))) ∧
    (s.seq.resume = .toOcrSd → Moves s (.next (spelled .mOcrSd (·.cmd55) (rca ++ 0#16) false probed))) ∧
    (s.seq.resume = .toOcrMmc →
      Moves s (.next (spelled .mOcrMmc (·.cmd1) (0#8 ++ s.seq.volt ++ 0#15) false probed)))

/-- R225, R226, R227, R228: a failed CMD8 is a legacy card, whose reset is replayed with fresh attempts and nothing
recorded; a response is checked, the echo first, and only a right one sets `h.if_ok` and goes on to the SD probe. That
`h.phase` is M_Reset during the replay is the model's choice (notes/assumptions/18.md). -/
def Obligations.InterfaceConditionChecked : Prop :=
  (∀ (s : State) (e : ErrorKind), After s .mIfCond (.failed e) →
    Moves s (.next (spelled .mReset (·.cmd0) 0#32 false
      { s with h.ifOk := false, seq.left := s.cfg.resetAttempts, seq.resume := .toOcrSd }))) ∧
  ∀ (s : State) (v : Word), After s .mIfCond .ok → s.h.ifCond = .holding v →
    let p := s.cfg.pos
    (v.extractLsb' p.r7Echo 8 ≠ s.cfg.ifPattern → Moves s (raise .interfaceConditionEcho s)) ∧
    (v.extractLsb' p.r7Echo 8 = s.cfg.ifPattern → v.extractLsb' p.r7Voltage 4 ≠ s.cfg.ifVhs →
      Moves s (raise .interfaceConditionVersion s)) ∧
    (∀ rca, v.extractLsb' p.r7Echo 8 = s.cfg.ifPattern → v.extractLsb' p.r7Voltage 4 = s.cfg.ifVhs → s.h.rca = .holding rca →
      Moves s (.next (spelled .mOcrSd (·.cmd55) (rca ++ 0#16) false
        { s with h.ifOk := true, seq.left := s.cfg.ocrPollLimit })))

/-- R230–R236: the operating-condition probes. A failing SD probe, or one that uses up its polls, replays the reset and
goes to the MMC probe with nothing recorded; a failing MMC probe is UnsupportedCardType; a ready bit ends either. That
`h.phase` is M_Reset during the replay is the model's choice (notes/assumptions/18.md). -/
def Obligations.OperatingConditionProbes : Prop :=
  ∀ s : State,
    let ready := fun ocr : Word => ocr.getLsbD s.cfg.pos.ocrReady
    let polled := { s with log := calls s [.delay s.cfg.ocrPollWait] ++ s.log }
    let mmcReplay := fun s : State => spelled .mReset (·.cmd0) 0#32 false
      { s with seq.left := s.cfg.resetAttempts, seq.resume := .toOcrMmc }
    (∀ e, After s .mOcrSd (.failed e) → Moves s (.next (mmcReplay s))) ∧
    (After s .mOcrSd .ok → s.seq.app = true →
      Moves s (.next (spelled .mOcrSd (·.acmd41)
        (0#1 ++ BitVec.ofBool s.h.ifOk ++ 0#6 ++ (s.seq.volt ++ 0#15)) true s))) ∧
    (∀ ocr, After s .mOcrSd .ok → s.seq.app = false → s.h.ocr = .holding ocr →
      (ready ocr = true → Moves s (.next (spelled .mCid (·.cmd2) 0#32 false { s with h.mediaKind := .sd }))) ∧
      (ready ocr = false → s.seq.left ≤ 1 → Moves s (.next (mmcReplay polled))) ∧
      (∀ rca, ready ocr = false → 1 < s.seq.left → s.h.rca = .holding rca →
        Moves s (.next (spelled .mOcrSd (·.cmd55) (rca ++ 0#16) false { polled with seq.left := s.seq.left - 1 })))) ∧
    (∀ e, After s .mOcrMmc (.failed e) → Moves s (raise .unsupportedCardType s)) ∧
    (∀ ocr, After s .mOcrMmc .ok → s.h.ocr = .holding ocr →
      (ready ocr = true →
        Moves s (.next (spelled .mCid (·.cmd2) 0#32 false { s with h.mediaKind := .mmc, h.revision := .mmc }))) ∧
      (ready ocr = false → s.seq.left ≤ 1 → Moves s (raise .unsupportedCardType polled)) ∧
      (ready ocr = false → 1 < s.seq.left →
        Moves s (.next (spelled .mOcrMmc (·.cmd1) (0#8 ++ s.seq.volt ++ 0#15) false
          { polled with seq.left := s.seq.left - 1 }))))

/-- R237, R239, R240: after CMD2 an SD card is asked for its address, at most RCA_ATTEMPTS times while it is zero (then
InternalError), an MMC card is given MMC_RCA; an address goes on to CMD9. From CMD2 on, a failed command of the mount is
raised at once. -/
def Obligations.ZeroAddressRetried : Prop :=
  (∀ (s : State) (e : ErrorKind) (p : Phase),
    p ∈ [Phase.mCid, .mRca, .mCsd, .mDsr, .mScr, .mSelect, .mBlockLen, .mBusWidth, .mClrStatus, .mSdStatus] →
    After s p (.failed e) → Moves s (raise e s)) ∧
  (∀ s : State, After s .mCid .ok →
    (s.h.mediaKind = .mmc → Moves s (.next (spelled .mRca (·.cmd3) (s.cfg.mmcRca ++ 0#16) false s))) ∧
    (s.h.mediaKind ≠ .mmc →
      Moves s (.next (spelled .mRca (·.cmd3) 0#32 false { s with seq.left := s.cfg.rcaAttempts })))) ∧
  ∀ (s : State) (rca : BitVec 16), After s .mRca .ok → s.h.rca = .holding rca →
    (s.h.mediaKind = .mmc ∨ rca ≠ 0#16 → Moves s (.next (spelled .mCsd (·.cmd9) (rca ++ 0#16) false s))) ∧
    (s.h.mediaKind ≠ .mmc → rca = 0#16 → 1 < s.seq.left →
      Moves s (.next (spelled .mRca (·.cmd3) 0#32 false { s with seq.left := s.seq.left - 1 }))) ∧
    (s.h.mediaKind ≠ .mmc → rca = 0#16 → s.seq.left ≤ 1 → Moves s (raise .internalError s))

/-- R241–R244: after CMD9 a card whose CSD's DSR_IMP says so gets CMD4 with DSR_VALUE; then an SD card is asked for its SCR,
and an MMC card goes on to the geometry. The revision of an SD card comes from the SCR's SD_SPEC and SD_SPEC3. -/
def Obligations.RevisionFromScr : Prop :=
  (∀ (s : State) (rca : BitVec 16), s.h.rca = .holding rca →
    let onward := fun t : State =>
      (s.h.mediaKind = .mmc → t = { s with h.phase := .mGeometry, seq.done := none }) ∧
      (s.h.mediaKind ≠ .mmc → t = spelled .mScr (·.cmd55) (rca ++ 0#16) false s)
    (∀ csd, After s .mCsd .ok → s.h.csd = .holding csd → csd.getLsbD s.cfg.pos.dsrImp = true →
      Moves s (.next (spelled .mDsr (·.cmd4) (s.cfg.dsrValue ++ 0#16) false s))) ∧
    (∀ csd, After s .mCsd .ok → s.h.csd = .holding csd → csd.getLsbD s.cfg.pos.dsrImp = false →
      ∃ t, Moves s (.next t) ∧ onward t) ∧
    (After s .mDsr .ok → ∃ t, Moves s (.next t) ∧ onward t) ∧
    (After s .mScr .ok → s.seq.app = true → Moves s (.next (spelled .mScr (·.acmd51) 0#32 true s)))) ∧
  ∀ (s : State) (scr : BitVec 64), After s .mScr .ok → s.seq.app = false → s.h.scr = .holding scr →
    ∃ t, Moves s (.next t) ∧ t.h.phase = .mGeometry ∧ t = { s with h := t.h, seq := t.seq } ∧
      t.h = { s.h with phase := .mGeometry, revision := t.h.revision } ∧
      (scr.extractLsb' s.cfg.pos.sdSpec 4 = 0#4 → t.h.revision = .r1_0x) ∧
      (scr.extractLsb' s.cfg.pos.sdSpec 4 = 1#4 → t.h.revision = .r1_10) ∧
      (scr.extractLsb' s.cfg.pos.sdSpec 4 = 2#4 → scr.getLsbD s.cfg.pos.sdSpec3 = true → t.h.revision = .r3_00) ∧
      (scr.extractLsb' s.cfg.pos.sdSpec 4 = 2#4 → scr.getLsbD s.cfg.pos.sdSpec3 = false → t.h.revision = .r2_00) ∧
      (3#4 ≤ scr.extractLsb' s.cfg.pos.sdSpec 4 → t.h.revision = .r2_00)

/-- R247–R252: the geometry step. The formula is chosen by media kind, CSD structure and revision; a structure the
revision cannot have is raised; the write-protect flags are the pin (only where supported), the CSD's TMP_WP and PERM_WP,
and the ROM draw; then CMD7 is spelled. -/
def Obligations.GeometryFromCsd : Prop :=
  ∀ (s : State) (csd : Image), Alone s .mGeometry → s.h.csd = .holding csd →
    let p := s.cfg.pos
    let structure_ := (csd.extractLsb' p.csdStructure 2).toNat
    let high := decide (s.h.mediaKind = .sd) && decide (structure_ = 1)
    let standard := ((csd.extractLsb' p.cSizeV1 12).toNat + 1) * 2 ^ ((csd.extractLsb' p.cSizeMult 3).toNat + 2) *
      2 ^ (csd.extractLsb' p.readBlLen 4).toNat / 512
    let sized := fun (sectors : Nat) => ∀ rca rom roms, s.h.rca = .holding rca → s.env.rom = rom :: roms →
      let flags := fun pin => BitVec.ofBool rom ++ BitVec.ofBool (csd.getLsbD p.permWriteProtect) ++
        BitVec.ofBool (csd.getLsbD p.tmpWriteProtect) ++ BitVec.ofBool pin
      (s.cfg.writeProtectSupported = false →
        Moves s (.next (spelled .mSelect (·.cmd7) (rca ++ 0#16) false { s with
          h.highCapacity := high, h.cardSectorSize := sectors, h.writeProtectFlags := flags false
          env.rom := roms }))) ∧
      (∀ pin pins, s.cfg.writeProtectSupported = true → s.env.writeProtect = pin :: pins →
        Moves s (.next (spelled .mSelect (·.cmd7) (rca ++ 0#16) false { s with
          h.highCapacity := high, h.cardSectorSize := sectors, h.writeProtectFlags := flags pin
          env.rom := roms, env.writeProtect := pins, log := calls s [.writeProtectLevel] ++ s.log })))
    (s.h.mediaKind = .mmc → sized standard) ∧
    (s.h.mediaKind ≠ .mmc →
      (structure_ = 0 → sized standard) ∧
      (structure_ = 1 → s.h.revision = .r2_00 ∨ s.h.revision = .r3_00 →
        sized (((csd.extractLsb' p.cSizeV2 22).toNat + 1) * 1024)) ∧
      (structure_ = 1 → s.h.revision ≠ .r2_00 → s.h.revision ≠ .r3_00 →
        Moves s (raise .registerVersionError { s with h.highCapacity := high })) ∧
      (2 ≤ structure_ → Moves s (raise .registerVersionError { s with h.highCapacity := high })))

/-- R254, R255, R272: an accepted CMD7 selects the card and switches the clock to F_XFER; a locked card ends the mount with
RESULT = 0x100, MountedLocked and the clock halted; an unlocked one goes on to CMD16 with argument 512. -/
def Obligations.SelectOutcome : Prop :=
  ∀ (s : State) (d : PortWord) (regs : List PortWord), After s .mSelect .ok → s.env.regs = d :: regs →
    let t := { s with
      h.clockFreq := .fXfer, seq.selected := true, env.regs := regs
      log := calls s [.write .clkCtrl (d ||| s.cfg.clkEnable), .divider s.cfg.fXfer] ++ s.log }
    (s.h.lastR1.getLsbD s.cfg.pos.r1.cardLocked = true → s.h.stickyError = none →
      Moves s (.next (returned 0x100#32 { t with h.mountState := .mountedLocked }))) ∧
    (s.h.lastR1.getLsbD s.cfg.pos.r1.cardLocked = false → Moves s (.next (spelled .mBlockLen (·.cmd16) 512#32 false t)))

/-- R257, R258, R259, R264: after CMD16 the 4-bit bus is negotiated exactly for an SD card whose SCR has the 4-bit
bit, on a host that can drive it; an SD card goes on to ACMD42 and then to its SD status, an MMC card to the end with
its own rows of R261–R263. -/
def Obligations.BusWidthNegotiated : Prop :=
  (∀ (s : State) (rca : BitVec 16), After s .mBlockLen .ok → s.h.rca = .holding rca →
    (∀ scr, s.cfg.host4Bit = true → s.h.mediaKind = .sd → s.h.scr = .holding scr → scr.getLsbD s.cfg.pos.fourBitBus = true →
      Moves s (.next (spelled .mBusWidth (·.cmd55) (rca ++ 0#16) false s))) ∧
    (∀ scr, s.h.mediaKind = .sd → s.h.scr = .holding scr → (s.cfg.host4Bit = false ∨ scr.getLsbD s.cfg.pos.fourBitBus = false) →
      Moves s (.next (spelled .mClrStatus (·.cmd55) (rca ++ 0#16) false s))) ∧
    (∀ csd, s.h.mediaKind = .mmc → s.h.csd = .holding csd →
      Moves s (.next { s with
        h.phase := .mDone, h.transferSpeedClass := 0#8, h.protectSectorSize := 0
        h.eraseSectorCount := ((csd.extractLsb' s.cfg.pos.eraseGrpSize 5).toNat + 1) *
          ((csd.extractLsb' s.cfg.pos.eraseGrpMult 5).toNat + 1)
        seq.done := none }))) ∧
  ∀ (s : State) (rca : BitVec 16), s.h.rca = .holding rca →
    (After s .mBusWidth .ok → s.seq.app = true → Moves s (.next (spelled .mBusWidth (·.acmd6) s.cfg.busWidthArg true s))) ∧
    (After s .mBusWidth .ok → s.seq.app = false → s.h.mediaKind ≠ .mmc →
      Moves s (.next (spelled .mClrStatus (·.cmd55) (rca ++ 0#16) false s))) ∧
    (After s .mClrStatus .ok → s.seq.app = true → Moves s (.next (spelled .mClrStatus (·.acmd42) 0#32 true s))) ∧
    (After s .mClrStatus .ok → s.seq.app = false →
      Moves s (.next (spelled .mSdStatus (·.cmd55) (rca ++ 0#16) false s)))

/-- R260–R263: ACMD13 is spelled after its CMD55; then the fields taken from the SD status and the CSD of an SD card. -/
def Obligations.SdStatusFields : Prop :=
  (∀ s : State, After s .mSdStatus .ok → s.seq.app = true → Moves s (.next (spelled .mSdStatus (·.acmd13) 0#32 true s))) ∧
  ∀ (s : State) (csd : Image) (st : BitVec 512),
    After s .mSdStatus .ok → s.seq.app = false → s.h.csd = .holding csd → s.h.sdStatus = .holding st →
    let p := s.cfg.pos
    let area := (st.extractLsb' p.protectedArea 32).toNat
    let au := (st.extractLsb' p.auSize 4).toNat
    Moves s (.next { s with
      h.phase := .mDone
      h.transferSpeedClass := st.extractLsb' p.speedClass 8
      h.protectSectorSize :=
        if s.h.highCapacity then area / 512
        else area * 2 ^ ((csd.extractLsb' p.cSizeMult 3).toNat + 2) * 2 ^ (csd.extractLsb' p.readBlLen 4).toNat / 512
      h.eraseSectorCount :=
        if s.h.revision = .r1_0x ∨ s.h.revision = .r1_10 then (csd.extractLsb' p.sectorSize 7).toNat + 1
        else if au = 0 then 0 else 32 * 2 ^ (au - 1)
      seq.done := none })

/-- R271, R272, R330: the last steps of a mount and of a transfer answer RESULT = 0 with the clock halted and the channel
idle; a mount leaves MountedUnlocked, a transfer leaves the mount state alone. -/
def Obligations.OperationsReturnOk : Prop :=
  ∀ s : State, s.h.stickyError = none →
    (Alone s .mDone → Moves s (.next (returned 0#32 { s with h.mountState := .mountedUnlocked }))) ∧
    (Alone s .xDone → Moves s (.next (returned 0#32 s)))

/-! ### The burst loop -/

/-- R299, R305, R310, R320, R321, R93: the top of the burst loop. No sector left: to the end. A pending stop: Stopped is
recorded and the abort's CMD12 spelled. Else the next burst of at most `transfer_chunk_limit` sectors, single-block for one
or two sectors, with its command, its wire address and, multi-block, its block count and automatic stop. Its bytes are in
doubt from its start where the card was lost, another channel has the DMA engine, or a read's buffer was touched (R391, R436,
R437, R443). That `h.phase` is X_Stop during the abort's CMD12 is the model's choice (notes/assumptions/39.md). -/
def Obligations.BurstBoundary : Prop :=
  ∀ (s : State) (q : TransferRequest), Alone s .xBurst → s.h.req = some q →
    let n := min (q.count - q.done) s.h.transferChunkLimit
    let first := q.start + q.done
    let last := decide (first + n = s.h.cardSectorSize)
    let address := fun sector => BitVec.ofNat 32 (if s.h.highCapacity then sector else sector * 512)
    let auto := last && decide (s.h.mediaKind = .mmc)
    let doubt := s.env.cardLost || (s.env.peerDma && decide (s.h.xferMode = .dma)) ||
      (s.seq.touched && decide (q.dir = .read))
    (q.count ≤ q.done → Moves s (.next { s with h.phase := .xDone })) ∧
    (q.done < q.count → s.h.compulsoryStop = true →
      Moves s (.next (spelled .xStop (·.cmd12) 0#32 false
        { s with h.stickyError := some (s.h.stickyError.getD .stopped), seq.aborting := true }))) ∧
    (q.done < q.count → s.h.compulsoryStop = false →
      (n ≤ 2 → Moves s (.next (spelled .xSingle (match q.dir with | .read => (·.cmd17) | .write => (·.cmd24)) (address first)
        false
        { s with
          h.blockMode := .single, seq.burst := ⟨first, n, 0, q.buf + 512 * q.done, last⟩, seq.doubtful := doubt }))) ∧
      (2 < n → Moves s (.next (spelled .xMulti (match q.dir with | .read => (·.cmd18) | .write => (·.cmd25)) (address first)
        false
        { s with
          h.blockMode := .multi, seq.burst := ⟨first, n, 0, q.buf + 512 * q.done, last⟩, seq.doubtful := doubt
          log := calls s [.autoStop auto, .write .blkCnt (BitVec.ofNat 64 n)] ++ s.log }))))

/-- R315, R316, R312: the check of a burst's CMD12 and CMD13. An OUT_OF_RANGE-only status is tolerated exactly when the
command's sectors reach the card's last one; any other error bit is raised; a CMD13 outside Transfer state is InternalError.
A checked command is followed by the burst's next sector, the written-block count, or the next burst (R299, R318; what
a burst in doubt leaves is `settleBurst`'s, BurstDamageIsBounded). Before raising, the burst's sectors (and on a read its
buffer) hold any bytes: `spoilBurst` (R96, R106, R107, the model's reading, notes/assumptions/13.md). -/
def Obligations.LastSectorTolerance : Prop :=
  ∀ (s : State) (q : TransferRequest), s.h.req = some q → s.seq.aborting = false →
    let onlyOutOfRange := s.h.lastR1 &&& r1ErrMask s.cfg.pos.r1 = 1#32 <<< s.cfg.pos.r1.outOfRange
    let last := s.seq.burst.last = true
    let lastSector := last ∧ (s.h.blockMode = .single → s.seq.burst.k + 1 = s.seq.burst.n)
    (∀ rca, After s .xStop .ok → s.h.rca = .holding rca → (r1Error s.cfg.pos.r1 s.h.lastR1 = none ∨ last ∧ onlyOutOfRange) →
      Moves s (.next (spelled .xVerify (·.cmd13) (rca ++ 0#16) false s))) ∧
    (∀ e, After s .xStop .ok → r1Error s.cfg.pos.r1 s.h.lastR1 = some e → ¬ (last ∧ onlyOutOfRange) →
      Moves s (raise e (spoilBurst q s))) ∧
    (∀ e, After s .xVerify .ok → r1Error s.cfg.pos.r1 s.h.lastR1 = some e → ¬ (lastSector ∧ onlyOutOfRange) →
      Moves s (raise e (spoilBurst q s))) ∧
    (After s .xVerify .ok → (r1Error s.cfg.pos.r1 s.h.lastR1 = none ∨ lastSector ∧ onlyOutOfRange) →
      s.h.lastR1.extractLsb' s.cfg.pos.r1.currentState 4 ≠ 4#4 → Moves s (raise .internalError (spoilBurst q s))) ∧
    (∀ rca, After s .xVerify .ok → (r1Error s.cfg.pos.r1 s.h.lastR1 = none ∨ lastSector ∧ onlyOutOfRange) →
      s.h.lastR1.extractLsb' s.cfg.pos.r1.currentState 4 = 4#4 → s.h.rca = .holding rca →
      let burstOver := Host.Outcome.next (burstFinished q s)
      (s.h.blockMode = .single → s.seq.burst.k + 1 < s.seq.burst.n →
        Moves s (.next (spelled .xSingle (match q.dir with | .read => (·.cmd17) | .write => (·.cmd24))
          (wireAddr s.h.highCapacity (s.seq.burst.first + s.seq.burst.k + 1)) false
          { s with seq.burst.k := s.seq.burst.k + 1 }))) ∧
      (s.h.blockMode = .single → s.seq.burst.n ≤ s.seq.burst.k + 1 → Moves s burstOver) ∧
      (s.h.blockMode = .multi → (q.dir = .read ∨ s.h.mediaKind ≠ .sd) → Moves s burstOver) ∧
      (s.h.blockMode = .multi → q.dir = .write → s.h.mediaKind = .sd →
        Moves s (.next (spelled .xWrCount (·.cmd55) (rca ++ 0#16) false s))))

/-- R305, R310, R321, R331: what follows a burst's command. A failure is raised, over a burst that then holds any bytes
(but for the sectors of R410); a sector's command is followed by CMD13, a multi-block command by CMD12, or by CMD13 where the
controller stops by itself; whatever the abort's CMD12 answers, recovery is entered. The bytes a raise leaves are the model's
reading of R96, R106, R107 and R410 (`spoilBurst`, notes/assumptions/13.md). -/
def Obligations.BurstCommandsFollowed : Prop :=
  ∀ (s : State) (q : TransferRequest), s.h.req = some q →
    (∀ e p, p ∈ [Phase.xSingle, .xMulti, .xVerify, .xWrCount] → After s p (.failed e) →
      Moves s (raise e (spoilBurst q s))) ∧
    (∀ e, After s .xStop (.failed e) → s.seq.aborting = false → Moves s (raise e (spoilBurst q s))) ∧
    (∀ r, After s .xStop r → s.seq.aborting = true → Moves s (recover s)) ∧
    ∀ rca, s.h.rca = .holding rca →
      (After s .xSingle .ok → Moves s (.next (spelled .xVerify (·.cmd13) (rca ++ 0#16) false s))) ∧
      (After s .xMulti .ok → s.seq.burst.last = true → s.h.mediaKind = .mmc →
        Moves s (.next (spelled .xVerify (·.cmd13) (rca ++ 0#16) false s))) ∧
      (After s .xMulti .ok → (s.seq.burst.last = false ∨ s.h.mediaKind ≠ .mmc) →
        Moves s (.next (spelled .xStop (·.cmd12) 0#32 false s)))

/-- R318: ACMD22 is spelled after its CMD55; a written-block count that is not the burst's size is ShortWrite, over a burst
that then holds any bytes (the model's reading of R96 and R106, notes/assumptions/13.md); the right count ends the burst. -/
def Obligations.WrittenBlockCount : Prop :=
  ∀ (s : State) (q : TransferRequest), After s .xWrCount .ok → s.h.req = some q →
    (s.seq.app = true → Moves s (.next (spelled .xWrCount (·.acmd22) 0#32 true s))) ∧
    (s.seq.app = false →
      (s.seq.wrCount.toNat ≠ s.seq.burst.n → Moves s (raise .shortWrite (spoilBurst q s))) ∧
      (s.seq.wrCount.toNat = s.seq.burst.n → Moves s (.next (burstFinished q s))))

/-! ### Error Recovery -/

/-- R24, R42, R400–R402: raising an error records it if none is recorded, and enters recovery: the sticky error captured,
the mask empty, nothing in flight, the DMA engine idle where there is one; a selected card is polled with CMD13, otherwise
recovery returns. Nothing else of the handle, no memory byte and no other request register changes. -/
def Obligations.RecoveryEntry : Prop :=
  ∀ (s : State) (e : ErrorKind),
    let first := s.h.stickyError.getD e
    let entered := { s.h with
      phase := .recovery, stickyError := some first, irqMask := [], inFlight := false
      dmaState := if s.cfg.dmaCapable then .idle else s.h.dmaState }
    let kept := fun t : State => t.mem = s.mem ∧ t.card = s.card ∧ t.cfg = s.cfg ∧ t.inputs = s.inputs ∧
      t.finalized = s.finalized
    (∀ rca, s.seq.selected = true → s.h.rca = .holding rca → ∃ t, raise e s = .next t ∧ kept t ∧ t.io = s.io ∧
      t.h = entered ∧
      t.seq = { s.seq with
        saved := some first, polled := false, staged := some ⟨0#1 ++ 1#1 ++ s.cfg.index.cmd13, rca ++ 0#16⟩
        done := none, app := false }) ∧
    (s.seq.selected = false → ∃ t, raise e s = .next t ∧ kept t ∧
      t.io = { s.io with result := 0#24 ++ errorCode first } ∧
      t.h = { entered with phase := .idle, opActive := false, clockOn := false, req := none } ∧
      t.seq = { s.seq with saved := some first, polled := false, staged := none, done := none })

/-- R402, R403: the Port calls of recovery's entry, newest first. The DMA engine is disabled and reset first, then status
and mask are cleared; only where CBSY = 1 follow the abort, a bounded spin, and the soft reset with the clock-control
and option registers read before it and written back after it; the reset follows also where the spin is used up. That the
DMA calls are recorded without operands is the model's choice (notes/assumptions/35.md). -/
def Obligations.RecoveryPortCalls : Prop :=
  ∀ (s : State) (v : Sts2) (rest : List Sts2), s.env.sts2 = v :: rest →
    let busyBit := fun x : Sts2 => x.getLsbD s.cfg.pos.sts2.commandBusy
    let still := { s with h.dmaState := if s.cfg.dmaCapable then .idle else s.h.dmaState }
    let unmasked := { still with h.irqMask := [] }
    let cleared := calls unmasked [.read .sts2, .unlockCpu, .mask []] ++
      calls still [.lockCpu, .write .sts2 0#64, .write .sts1 0#64] ++
      calls s (if s.cfg.dmaCapable then [.dmaReset, .dmaDisable] else []) ++ s.log
    let reset := fun (spins : Nat) (clk opt : PortWord) =>
      calls unmasked ([.write .option opt, .write .clkCtrl clk, .write .softRst s.cfg.softRstRelease,
        .write .softRst s.cfg.softRstAssert, .read .option, .read .clkCtrl] ++
        List.replicate spins (.read .sts2) ++ [.write .stop s.cfg.stopAbort]) ++ cleared
    (recoveryEntry s).h.inFlight = false ∧
    (busyBit v = false → (recoveryEntry s).log = cleared) ∧
    (∀ busy later clk opt regs, busyBit v = true → (∀ x ∈ busy, busyBit x = true) → s.env.regs = clk :: opt :: regs →
      (∀ w, rest = busy ++ w :: later → busyBit w = false → busy.length < s.cfg.busySpinLimit →
        (recoveryEntry s).log = reset (busy.length + 1) clk opt) ∧
      (rest = busy ++ later → busy.length = s.cfg.busySpinLimit →
        (recoveryEntry s).log = reset s.cfg.busySpinLimit clk opt))

/-- R404, R405, R406, R383, R409: after the poll, a card not in Transfer state, or a failed poll, gets one CMD12; then,
whatever it answers, recovery returns the captured error with the clock halted and the channel idle. -/
def Obligations.RecoveryReturn : Prop :=
  ∀ (s : State) (r : CmdResult) (e : ErrorKind), After s .recovery r → s.seq.saved = some e →
    let done := returned (0#24 ++ errorCode e) { s with h.stickyError := some e }
    (s.seq.polled = true → Moves s (.next done)) ∧
    (s.seq.polled = false → r = .ok → s.h.lastR1.extractLsb' s.cfg.pos.r1.currentState 4 = 4#4 → Moves s (.next done)) ∧
    (s.seq.polled = false → (r ≠ .ok ∨ s.h.lastR1.extractLsb' s.cfg.pos.r1.currentState 4 ≠ 4#4) →
      Moves s (.next (spelled .recovery (·.cmd12) 0#32 false { s with seq.polled := true })))

/-- R42, R386, R388, R333: from a sound state, an error recorded in a running operation stays through every step, whatever
recovery's commands answer, and is the RESULT when the operation returns. -/
def Obligations.FirstErrorIsTheResult : Prop :=
  ∀ (s t : State) (e : ErrorKind), Inv s → s.h.opActive = true → s.h.stickyError = some e → step s = .next t →
    t.h.stickyError = some e ∧ (t.h.opActive = false → t.io.result = 0#24 ++ errorCode e)

/-! ### Whole-machine rules -/

/-- R37, R407, R273: the only steps that change `mount_state` are MOUNT, UNMOUNT, driver init, finalize, and the mount's
locked and last steps; recovery and every transfer leave it alone, in every state. -/
def Obligations.MountStateWriters : Prop :=
  ∀ s t : State, step s = .next t → t.h.mountState ≠ s.h.mountState →
    (∃ w, requested s = some w ∧
      ((∃ v2 volt, decode s.cfg.index (.request w) = .ok (.mount v2 volt)) ∨
        decode s.cfg.index (.request w) = .ok .unmount)) ∨
    (∃ rest, s.inputs = some .driverInit :: rest ∨ s.inputs = some .finalize :: rest) ∨
    (s.h.phase = .mSelect ∧ t.h.mountState = .mountedLocked) ∨ (s.h.phase = .mDone ∧ t.h.mountState = .mountedUnlocked)

/-- R44, R435: a set stop flag is cleared only by MOUNT, UNMOUNT, driver init and finalize; the parameters never change, and
`h.transfer_chunk_limit`, the channel's CHUNK_LIMIT (R45), only by driver init. -/
def Obligations.StopFlagAndParameters : Prop :=
  ∀ s t : State, step s = .next t →
    t.cfg = s.cfg ∧
    (t.h.transferChunkLimit ≠ s.h.transferChunkLimit → ∃ rest, s.inputs = some .driverInit :: rest) ∧
    (s.h.compulsoryStop = true → t.h.compulsoryStop = false →
      (∃ w, requested s = some w ∧
        ((∃ v2 volt, decode s.cfg.index (.request w) = .ok (.mount v2 volt)) ∨
        decode s.cfg.index (.request w) = .ok .unmount)) ∨
      (∃ rest, s.inputs = some .driverInit :: rest ∨ s.inputs = some .finalize :: rest))

/-- R391, R392, R451, R439, R355: card-detect callbacks and REQUEST_STOP, at any time. Between steps this channel's
card-detect callbacks write their flags and every other callback changes nothing. A callback or a stop before a wire command
and one after it leave the same state, so that inside it none can be seen. Inside a request's step they are seen where they
can be: at its acceptance, where the request runs on the state they leave; and between READ's or WRITE's check of the stop
flag and that of presence, or MOUNT's or IS_PRESENT's sample and its use: a removal there is NoCard, or DATA0 = 0; a stop
there leaves the request's own error as RESULT and stays set. (The points are notes/assumptions/1.md's; `env.cardLost` and
`seq.doubtful` are the model's own, notes/assumptions/38.md; the ARGs of a stop, 37.md.) -/
def Obligations.CardDetectCallbacks : Prop :=
  (∀ (s : State) (ev : EventClass) (channel : Nat) (extra : Word) (rest : List (Option Input)),
    configured s = true → s.inputs = some (.callback ev channel extra) :: rest →
    let t := { s with inputs := rest }
    (s.cfg.cardDetectSupported = true → channel = s.cfg.channel → ev = .cardInsert →
      step s = .next { t with h.cardPresent := true }) ∧
    (s.cfg.cardDetectSupported = true → channel = s.cfg.channel → ev = .cardRemove →
      step s = .next { t with
        h.cardPresent := false, h.compulsoryStop := true, env.cardLost := true, seq.doubtful := true }) ∧
    ((s.cfg.cardDetectSupported = false ∨ channel ≠ s.cfg.channel ∨ s.cfg.nChannels ≤ channel ∨
      (ev ≠ .cardInsert ∧ ev ≠ .cardRemove)) → step s = .next t)) ∧
  (∀ (i : Instr) (s : State) (m : Midway), isWire i = true →
    (∀ t, exec i s = .next t → exec i (midway m s) = .next (midway m t)) ∧
    (∀ f, exec i s = .fault f → exec i (midway m s) = .fault f)) ∧
  (∀ (i : Instr) (s : State) (acts : List Midway) (later : List (List Midway)), isWire i = false → i ≠ .requestStop →
    exec i { s with env.during := acts :: later } =
      exec i { acts.foldl (fun t m => midway m t) s with env.during := [] :: later }) ∧
  (∀ (s : State) (later : List (List Midway)), Free s → s.cfg.cardDetectSupported = true →
    s.cfg.channel < s.cfg.nChannels → s.env.during = [] :: [.callback .cardRemove s.cfg.channel] :: later →
    let removed := fun t : State => t.h.cardPresent = false ∧ t.h.compulsoryStop = true ∧ t.h.opActive = false ∧
      t.env.during = later
    (∀ i start count buf len, (i = .read start count buf len ∨ i = .write start count buf len) →
      512 * count.toNat ≤ len.toNat → s.h.mountState = .mountedUnlocked → s.h.compulsoryStop = false →
      ∃ t, exec i s = .next t ∧ removed t ∧ t.io.result = 0x22#32 ∧ t.log = s.log) ∧
    (∀ v2 volt, ∃ t, exec (.mount v2 volt) s = .next t ∧ removed t ∧ t.io.result = 0x22#32 ∧
      t.h.clockOn = s.h.clockOn) ∧
    ∃ t, exec .isPresent s = .next t ∧ removed t ∧ t.io.data0 = 0#32 ∧ t.io.result = 0#32) ∧
  ∀ (s : State) (a0 a1 a2 a3 a4 : Word) (later : List (List Midway)), Free s →
    let stop := Midway.stop a0 a1 a2 a3 a4
    let stopped := fun (result : Word) (t : State) =>
      t.io = { s.io with req := 9#32, arg0 := a0, arg1 := a1, arg2 := a2, arg3 := a3, arg4 := a4, result := result } ∧
      t.h.compulsoryStop = true ∧ t.h.opActive = false ∧ t.env.during = later
    (∀ i start count buf len, (i = .read start count buf len ∨ i = .write start count buf len) →
      512 * count.toNat ≤ len.toNat → s.h.mountState = .mountedUnlocked → s.h.compulsoryStop = false →
      (s.env.during = [stop] :: later → ∃ t, exec i s = .next t ∧ stopped 0x23#32 t) ∧
      (s.cfg.cardDetectSupported = false ∨ s.h.cardPresent = true →
        s.h.cardSectorSize ≤ start.toNat ∨ s.h.cardSectorSize < start.toNat + count.toNat →
        s.env.during = [] :: [stop] :: later → ∃ t, exec i s = .next t ∧ stopped 0x01#32 t)) ∧
    ∀ v2 volt levels, s.cfg.cardDetectSupported = true → s.env.cardDetect = false :: levels →
      s.env.during = [] :: [stop] :: later → ∃ t, exec (.mount v2 volt) s = .next t ∧ stopped 0x22#32 t

/-- R437, R443, R436 (notes/assumptions/23.md, 24.md, 38.md): acts from outside on what a transfer moves. A store outside the
running transfer's buffer writes its byte and a load there changes nothing; either inside it makes the buffer's bytes draws,
leaves every other byte alone and puts a read's bursts in doubt. Another channel's DMA transfer puts a burst on the DMA path
in doubt, and so does a loss of the card's supply. -/
def Obligations.ActsOnTransfers : Prop :=
  ∀ (s : State) (act : Input) (rest : List (Option Input)), configured s = true → s.inputs = some act :: rest →
    let u := { s with inputs := rest }
    (∀ addr b, act = .store addr b ∨ act = .load addr →
      let a := addr.toNat % 2 ^ s.cfg.bufAddrBits
      ((∀ q, s.h.req = some q → a < q.buf ∨ q.buf + 512 * q.count ≤ a) →
        (act = .load addr → step s = .next u) ∧
        (act = .store addr b → ∃ t, step s = .next t ∧ t = { u with mem := t.mem } ∧
          ∀ x, t.mem.read x = if x = a then b else s.mem.read x)) ∧
      (∀ q, s.h.req = some q → q.buf ≤ a → a < q.buf + 512 * q.count →
        ∃ t, step s = .next t ∧ (∀ x, x < q.buf ∨ q.buf + 512 * q.count ≤ x → t.mem.read x = s.mem.read x) ∧
          t = { u with
            mem := t.mem, env.bytes := t.env.bytes, env.draws := t.env.draws, seq.touched := true
            seq.doubtful := s.seq.doubtful || decide (q.dir = .read) })) ∧
    (∀ busy, act = .peerDma busy → step s = .next { u with
      env.peerDma := busy, seq.doubtful := s.seq.doubtful || (busy && decide (s.h.xferMode = .dma)) }) ∧
    (act = .power true → step s = .next { u with env.powered := true }) ∧
    (act = .power false → step s = .next { u with env.powered := false, env.cardLost := true, seq.doubtful := true })

/-- R432 and R430, R431, R434, R73: finalize of an idle channel is UNMOUNT's effect with no write to the request interface,
and ends its requests (that it is an input is the model's choice, notes/assumptions/21.md, as of driver init, 22.md);
driver init of an idle channel gives every handle field and request register its reset value and keeps both
memories; its only Port call is the card-detect sample; while an operation runs it gets no step. -/
def Obligations.DriverInitResets : Prop :=
  (∀ (s : State) (rest : List (Option Input)), configured s = true → s.inputs = some .finalize :: rest →
    (s.h.opActive = true → step s = .refused .overlappingRequest) ∧
    (s.h.opActive = false → ∃ u : Handle, step s = .next { s with
      inputs := rest, h := { cardForgotten u s.h with clockOn := false }, finalized := true
      log := calls s [.write .clkCtrl s.cfg.clkDisabled, .busSelect .one] ++ s.log })) ∧
  ∀ (s : State) (rest : List (Option Input)), configured s = true → s.inputs = some .driverInit :: rest →
    (s.h.opActive = true → step s = .refused .resetWhileBusy) ∧
    (∀ level levels, s.h.opActive = false →
      (if s.cfg.cardDetectSupported then s.env.cardDetect = level :: levels else level = true) →
      ∃ (t : State) (u : Handle), step s = .next t ∧ t.mem = s.mem ∧ t.card = s.card ∧ t.cfg = s.cfg ∧
        t.log = calls t (if s.cfg.cardDetectSupported then [.cardDetectLevel] else []) ++ s.log ∧ t.finalized = false ∧
        t.io = ⟨0, 0, 0, 0, 0, 0, 0, 0, 0, 0⟩ ∧
        t.h = ⟨s.cfg.portHandle, .idle, 0, 0, 0, .unknown, .unmounted, 0#4, unread u.ocr, unread u.cid,
          unread u.csd, unread u.dsr, unread u.rca, unread u.scr, unread u.sdStatus, unread u.ifCond, .one, 0#8, none, false,
          s.cfg.chunkLimit, .r1_0x, false, false, level, false, false, false, .fIdent, [], .idle,
          .sw, .single, none, 0#32, 0#16⟩)

/-- A step runs the instruction at the machine's fetch: the request the host writes, with its words in the registers, or,
whether or not something arrives later, the frame the engine has spelled; with none spelled a running operation takes its
control step, and an idle channel does nothing. A configuration outside its ranges is refused: R11 says so of the chunk
limit; the other ranges are the model's choice (notes/assumptions/20.md), and so are the input slots
(notes/assumptions/10.md) and the words that come with the request (notes/assumptions/37.md). -/
def Obligations.StepRunsDecodedInstruction : Prop :=
  ∀ s : State,
    (configured s = false → step s = .refused .illFormedConfiguration) ∧
    (configured s = true →
      (∀ w rest i, s.inputs = some (.request w) :: rest → decode s.cfg.index (.request w) = .ok i →
        step s = exec i { s with
          inputs := rest
          io := { s.io with
            req := w.req, arg0 := w.arg0, arg1 := w.arg1, arg2 := w.arg2, arg3 := w.arg3, arg4 := w.arg4 } }) ∧
      (∀ f i, s.seq.staged = some f → decode s.cfg.index (.wire s.seq.app f) = .ok i → Moves s (exec i s)) ∧
      (s.seq.staged = none → s.h.opActive = true → Moves s (advance s)) ∧
      (s.seq.staged = none → s.h.opActive = false → Moves s (.next s)))

/-- The state after driver init is sound, under every configuration and card-detect sample. -/
def Obligations.ResetMeetsInvariant : Prop :=
  Inv State.reset ∧ ∀ cfg level, Inv (State.resetWith cfg level)

/-- Every step keeps the state sound (Safety.lean): the memories canonical, the mask empty and nothing in flight between
commands, BUSY and the phase agreeing, the clock on exactly as R452 asks, only R132's commands spelled, no unwritten image
read, the sticky error and recovery's capture agreeing. -/
def Obligations.StepKeepsInvariant : Prop :=
  ∀ s t : State, Inv s → step s = .next t → Inv t

/-- From a sound state under a legal configuration no step faults, and a step that nothing from outside joins answers a
next state: the engine is never stuck, and what is refused is always a host's act. -/
def Obligations.EngineNeverStops : Prop :=
  ∀ s : State, Inv s → configured s = true →
    (∀ f, step s ≠ .fault f) ∧
    (s.inputs = [] ∨ (∃ rest, s.inputs = none :: rest) → ∃ t, step s = .next t)
end

