-- ==== Sys2Proof/Laws/Memory.lean ====
section
/-! SUPPORT. The laws of memory: what a read gives after a write, and that a write keeps the canonical form. -/

namespace Sys2Proof.Laws

open Sys2Proof.Machine

/-! ### The canonical form -/

/-- The canonical form as a statement about the pairs: rising addresses, no entry an unlisted byte would equal. -/
theorem memory_wf_iff (m : Memory) :
    m.wf = true ↔ m.Pairwise (fun c d => c.1 < d.1) ∧ ∀ c ∈ m, c.2 ≠ unlistedByte := by
  induction m with
  | nil => simp [Memory.wf]
  | cons c m ih =>
    cases m with
    | nil => simp [Memory.wf]
    | cons d m =>
      simp only [Memory.wf, Bool.and_eq_true, decide_eq_true_eq, ih]
      constructor
      · rintro ⟨⟨hc, hlt⟩, hp, hne⟩
        refine ⟨List.pairwise_cons.2 ⟨fun e he => ?_, hp⟩, fun e he => ?_⟩
        · rcases List.mem_cons.1 he with rfl | he
          · exact hlt
          · exact hlt.trans ((List.pairwise_cons.1 hp).1 e he)
        · rcases List.mem_cons.1 he with rfl | he
          · exact hc
          · exact hne e he
      · rintro ⟨hp, hne⟩
        obtain ⟨hlt, hp'⟩ := List.pairwise_cons.1 hp
        exact ⟨⟨hne c (by simp), hlt d (by simp)⟩, hp', fun e he => hne e (List.mem_cons_of_mem _ he)⟩

@[simp] theorem memory_wf_nil : Memory.wf [] = true := rfl

theorem cellsFrom_range (a : Nat) (bs : List Byte) : ∀ c ∈ cellsFrom a bs, a ≤ c.1 ∧ c.1 < a + bs.length := by
  induction bs generalizing a with
  | nil => simp [cellsFrom]
  | cons b bs ih =>
    intro c hc
    unfold cellsFrom at hc
    have tail : c ∈ cellsFrom (a + 1) bs → a ≤ c.1 ∧ c.1 < a + (b :: bs).length := fun h => by
      have := ih (a + 1) c h
      simp only [List.length_cons]
      omega
    split at hc
    · exact tail hc
    · rcases List.mem_cons.1 hc with rfl | hc
      · simp
      · exact tail hc

theorem cellsFrom_wf (a : Nat) (bs : List Byte) :
    (cellsFrom a bs).Pairwise (fun c d => c.1 < d.1) ∧ ∀ c ∈ cellsFrom a bs, c.2 ≠ unlistedByte := by
  induction bs generalizing a with
  | nil => simp [cellsFrom]
  | cons b bs ih =>
    unfold cellsFrom
    split
    · exact ih (a + 1)
    · rename_i hb
      refine ⟨List.pairwise_cons.2 ⟨fun c hc => ?_, (ih _).1⟩, fun c hc => ?_⟩
      · have := cellsFrom_range _ _ c hc
        simpa using this.1
      · rcases List.mem_cons.1 hc with rfl | hc
        · exact hb
        · exact (ih _).2 c hc

/-- Every store keeps the canonical form. -/
theorem writeBytes_wf (m : Memory) (a : Nat) (bs : List Byte) (h : m.wf = true) : (m.writeBytes a bs).wf = true := by
  rw [memory_wf_iff] at h ⊢
  obtain ⟨hp, hne⟩ := h
  refine ⟨?_, ?_⟩
  · unfold Memory.writeBytes
    rw [List.pairwise_append, List.pairwise_append]
    refine ⟨⟨hp.filter _, (cellsFrom_wf a bs).1, ?_⟩, hp.filter _, ?_⟩
    · intro c hc d hd
      have hlow := (List.mem_filter.1 hc).2
      have := cellsFrom_range a bs d hd
      simp only [decide_eq_true_eq] at hlow
      omega
    · intro c hc d hd
      have hhigh := (List.mem_filter.1 hd).2
      simp only [decide_eq_true_eq] at hhigh
      rcases List.mem_append.1 hc with hc | hc
      · have hlow := (List.mem_filter.1 hc).2
        simp only [decide_eq_true_eq] at hlow
        omega
      · have := cellsFrom_range a bs c hc
        omega
  · intro c hc
    unfold Memory.writeBytes at hc
    rcases List.mem_append.1 hc with hc | hc
    · rcases List.mem_append.1 hc with hc | hc
      · exact hne c (List.mem_filter.1 hc).1
      · exact (cellsFrom_wf a bs).2 c hc
    · exact hne c (List.mem_filter.1 hc).1

/-! ### Reads -/

theorem read_append (m n : Memory) (x : Nat) :
    Memory.read (m ++ n) x = if ∃ c ∈ m, c.1 = x then Memory.read m x else Memory.read n x := by
  induction m with
  | nil => simp
  | cons c m ih =>
    by_cases hc : c.1 = x
    · simp [Memory.read, hc]
    · simp [Memory.read, hc, ih]

theorem read_none (m : Memory) (x : Nat) (h : ∀ c ∈ m, c.1 ≠ x) : m.read x = unlistedByte := by
  induction m with
  | nil => rfl
  | cons c m ih =>
    have hc : c.1 ≠ x := h c (by simp)
    simp only [Memory.read, hc, if_false]
    exact ih fun d hd => h d (List.mem_cons_of_mem _ hd)

theorem read_filter (m : Memory) (p : Nat → Bool) (x : Nat) (h : p x = true) :
    Memory.read (m.filter fun c => p c.1) x = m.read x := by
  induction m with
  | nil => rfl
  | cons c m ih =>
    by_cases hc : c.1 = x
    · simp [Memory.read, hc, h]
    · cases hp : p c.1 <;> simp [Memory.read, hp, hc, ih]

/-- Reading a stored byte gives it. -/
theorem cellsFrom_read (a : Nat) (bs : List Byte) (x : Nat) :
    (cellsFrom a bs).read x = if a ≤ x then bs.getD (x - a) unlistedByte else unlistedByte := by
  induction bs generalizing a with
  | nil => simp [cellsFrom, Memory.read]
  | cons b bs ih =>
    have here : (cellsFrom (a + 1) bs).read a = unlistedByte :=
      read_none _ _ fun c hc => by have := cellsFrom_range _ _ c hc; omega
    unfold cellsFrom
    by_cases hx : a = x
    · subst hx
      split
      · rename_i hb; simp [here, hb]
      · simp [Memory.read]
    · have step : (cellsFrom (a + 1) bs).read x = if a ≤ x then (b :: bs).getD (x - a) unlistedByte else unlistedByte := by
        rw [ih]
        by_cases hle : a ≤ x
        · obtain ⟨k, rfl⟩ : ∃ k, x = a + 1 + k := ⟨x - (a + 1), by omega⟩
          have e1 : a + 1 + k - (a + 1) = k := by omega
          have e2 : a + 1 + k - a = k + 1 := by omega
          rw [if_pos (by omega), if_pos hle, e1, e2]
          simp
        · rw [if_neg (by omega), if_neg hle]
      split
      · exact step
      · simp [Memory.read, hx, step]

/-- A store leaves every byte outside it alone. -/
theorem writeBytes_read_outside (m : Memory) (a : Nat) (bs : List Byte) (x : Nat) (h : x < a ∨ a + bs.length ≤ x) :
    (m.writeBytes a bs).read x = m.read x := by
  have mid : ∀ c ∈ cellsFrom a bs, c.1 ≠ x := fun c hc => by have := cellsFrom_range a bs c hc; omega
  unfold Memory.writeBytes
  rcases h with h | h
  · have keep : Memory.read (m.filter fun c => decide (c.1 < a)) x = m.read x :=
      read_filter m (fun y => decide (y < a)) x (by simpa using h)
    have high : Memory.read (m.filter fun c => decide (a + bs.length ≤ c.1)) x = unlistedByte :=
      read_none _ _ fun c hc => by
        have := (List.mem_filter.1 hc).2
        simp only [decide_eq_true_eq] at this
        omega
    rw [read_append, read_append, keep, high, read_none _ _ mid]
    split
    · split
      · rfl
      · rename_i hin hnot
        obtain ⟨c, hc, rfl⟩ := hin
        rcases List.mem_append.1 hc with hc | hc
        · exact absurd ⟨c, hc, rfl⟩ hnot
        · exact absurd rfl (mid c hc)
    · rename_i hnot
      rw [← keep]
      refine (read_none _ _ fun c hc e => hnot ⟨c, ?_, e⟩).symm
      exact List.mem_append_left _ hc
  · have keep : Memory.read (m.filter fun c => decide (a + bs.length ≤ c.1)) x = m.read x :=
      read_filter m (fun y => decide (a + bs.length ≤ y)) x (by simpa using h)
    rw [read_append, if_neg, keep]
    rintro ⟨c, hc, rfl⟩
    rcases List.mem_append.1 hc with hc | hc
    · have := (List.mem_filter.1 hc).2
      simp only [decide_eq_true_eq] at this
      omega
    · exact mid c hc rfl

/-- A read after a store gives the stored byte. -/
theorem writeBytes_read_inside (m : Memory) (a : Nat) (bs : List Byte) (i : Nat) (h : i < bs.length) :
    (m.writeBytes a bs).read (a + i) = bs[i] := by
  have low : ∀ c ∈ m.filter (fun c => decide (c.1 < a)), c.1 ≠ a + i := fun c hc => by
    have := (List.mem_filter.1 hc).2
    simp only [decide_eq_true_eq] at this
    omega
  have high : ∀ c ∈ m.filter (fun c => decide (a + bs.length ≤ c.1)), c.1 ≠ a + i := fun c hc => by
    have := (List.mem_filter.1 hc).2
    simp only [decide_eq_true_eq] at this
    omega
  have cell : (cellsFrom a bs).read (a + i) = bs[i] := by
    rw [cellsFrom_read]
    simp [List.getD_eq_getElem?_getD, h]
  unfold Memory.writeBytes
  rw [read_append]
  split
  · rw [read_append, if_neg (fun ⟨c, hc, e⟩ => low c hc e), cell]
  · rename_i hnot
    rw [read_none _ _ high, ← cell]
    refine (read_none _ _ fun c hc e => hnot ⟨c, ?_, e⟩).symm
    exact List.mem_append_right _ hc

@[simp] theorem readBytes_length (m : Memory) (a n : Nat) : (m.readBytes a n).length = n := by
  simp [Memory.readBytes]

theorem readBytes_getElem (m : Memory) (a n i : Nat) (h : i < (m.readBytes a n).length) :
    (m.readBytes a n)[i] = m.read (a + i) := by
  simp [Memory.readBytes]

/-- Two reads of a range agree where every byte does. -/
theorem readBytes_congr (m k : Memory) (a n : Nat) (h : ∀ i, i < n → m.read (a + i) = k.read (a + i)) :
    m.readBytes a n = k.readBytes a n := by
  simp only [Memory.readBytes]
  exact List.map_congr_left fun i hi => h i (List.mem_range.1 hi)

end Sys2Proof.Laws
end

