-- ==== Sys2Proof/Laws/State.lean ====
section
/-! SUPPORT. What each update of the state does to each part of it: one lemma per part. Later proofs cite these and
unfold no record update. -/

namespace Sys2Proof.Laws

open Sys2Proof.Machine

/-! ### logCall -/

@[simp] theorem portEvent_eq (h : Handle) (c : PortCall) :
    portEvent h c = ⟨h.registerBase, c, h.inFlight, h.irqMask, h.dmaState⟩ := rfl

@[simp] theorem logCall_cfg (c : PortCall) (s : State) : (logCall c s).cfg = s.cfg := rfl
@[simp] theorem logCall_h (c : PortCall) (s : State) : (logCall c s).h = s.h := rfl
@[simp] theorem logCall_io (c : PortCall) (s : State) : (logCall c s).io = s.io := rfl
@[simp] theorem logCall_seq (c : PortCall) (s : State) : (logCall c s).seq = s.seq := rfl
@[simp] theorem logCall_env (c : PortCall) (s : State) : (logCall c s).env = s.env := rfl
@[simp] theorem logCall_mem (c : PortCall) (s : State) : (logCall c s).mem = s.mem := rfl
@[simp] theorem logCall_card (c : PortCall) (s : State) : (logCall c s).card = s.card := rfl
@[simp] theorem logCall_log (c : PortCall) (s : State) : (logCall c s).log = portEvent s.h c :: s.log := rfl
@[simp] theorem logCall_inputs (c : PortCall) (s : State) : (logCall c s).inputs = s.inputs := rfl
@[simp] theorem logCall_finalized (c : PortCall) (s : State) : (logCall c s).finalized = s.finalized := rfl

/-! ### Card-register images -/

theorem CardRegister.written_iff {w : Nat} (r : CardRegister w) : r.written = true ↔ ∃ v, r = .holding v := by
  obtain ⟨v, b⟩ := r
  cases b <;> simp [CardRegister.holding]

@[simp] theorem CardRegister.holding_value {w : Nat} (v : BitVec w) : (CardRegister.holding v).value = v := rfl
@[simp] theorem CardRegister.holding_written {w : Nat} (v : BitVec w) : (CardRegister.holding v).written = true := rfl
@[simp] theorem CardRegister.unwritten_written {w : Nat} : (CardRegister.unwritten : CardRegister w).written = false := rfl

@[simp] theorem withImage_holding {w : Nat} (v : BitVec w) (k : BitVec w → Result) : withImage (.holding v) k = k v := rfl
@[simp] theorem withImage_unwritten {w : Nat} (k : BitVec w → Result) :
    withImage .unwritten k = .fault .unwrittenImage := rfl

/-- A control step that answers a next state has read only written images (R39). -/
theorem withImage_cases {w : Nat} {r : CardRegister w} {k : BitVec w → Result} {t : State} (h : withImage r k = .next t) :
    ∃ v, r = .holding v ∧ k v = .next t := by
  unfold withImage at h
  split at h
  · obtain ⟨v, rfl⟩ := (CardRegister.written_iff r).1 ‹_›
    exact ⟨v, rfl, h⟩
  · cases h

/-! ### writeReg -/

@[simp] theorem writeReg_cfg (r : PortReg) (v : PortWord) (s : State) : (writeReg r v s).cfg = s.cfg := rfl
@[simp] theorem writeReg_h (r : PortReg) (v : PortWord) (s : State) : (writeReg r v s).h = s.h := rfl
@[simp] theorem writeReg_io (r : PortReg) (v : PortWord) (s : State) : (writeReg r v s).io = s.io := rfl
@[simp] theorem writeReg_seq (r : PortReg) (v : PortWord) (s : State) : (writeReg r v s).seq = s.seq := rfl
@[simp] theorem writeReg_env (r : PortReg) (v : PortWord) (s : State) : (writeReg r v s).env = s.env := rfl
@[simp] theorem writeReg_mem (r : PortReg) (v : PortWord) (s : State) : (writeReg r v s).mem = s.mem := rfl
@[simp] theorem writeReg_card (r : PortReg) (v : PortWord) (s : State) : (writeReg r v s).card = s.card := rfl
@[simp] theorem writeReg_log (r : PortReg) (v : PortWord) (s : State) :
    (writeReg r v s).log = portEvent s.h (.write r v) :: s.log := rfl
@[simp] theorem writeReg_inputs (r : PortReg) (v : PortWord) (s : State) : (writeReg r v s).inputs = s.inputs := rfl
@[simp] theorem writeReg_finalized (r : PortReg) (v : PortWord) (s : State) :
    (writeReg r v s).finalized = s.finalized := rfl

/-! ### setMask -/

@[simp] theorem setMask_cfg (cs : List EventClass) (s : State) : (setMask cs s).cfg = s.cfg := rfl
@[simp] theorem setMask_h (cs : List EventClass) (s : State) : (setMask cs s).h = { s.h with irqMask := cs } := rfl
@[simp] theorem setMask_io (cs : List EventClass) (s : State) : (setMask cs s).io = s.io := rfl
@[simp] theorem setMask_seq (cs : List EventClass) (s : State) : (setMask cs s).seq = s.seq := rfl
@[simp] theorem setMask_env (cs : List EventClass) (s : State) : (setMask cs s).env = s.env := rfl
@[simp] theorem setMask_mem (cs : List EventClass) (s : State) : (setMask cs s).mem = s.mem := rfl
@[simp] theorem setMask_card (cs : List EventClass) (s : State) : (setMask cs s).card = s.card := rfl
@[simp] theorem setMask_log (cs : List EventClass) (s : State) :
    (setMask cs s).log =
      portEvent { s.h with irqMask := cs } .unlockCpu :: portEvent { s.h with irqMask := cs } (.mask cs) ::
        portEvent s.h .lockCpu :: s.log := rfl
@[simp] theorem setMask_inputs (cs : List EventClass) (s : State) : (setMask cs s).inputs = s.inputs := rfl
@[simp] theorem setMask_finalized (cs : List EventClass) (s : State) : (setMask cs s).finalized = s.finalized := rfl

/-! ### haltClock -/

@[simp] theorem haltClock_cfg (s : State) : (haltClock s).cfg = s.cfg := rfl
@[simp] theorem haltClock_h (s : State) : (haltClock s).h = { s.h with clockOn := false } := rfl
@[simp] theorem haltClock_io (s : State) : (haltClock s).io = s.io := rfl
@[simp] theorem haltClock_seq (s : State) : (haltClock s).seq = s.seq := rfl
@[simp] theorem haltClock_env (s : State) : (haltClock s).env = s.env := rfl
@[simp] theorem haltClock_mem (s : State) : (haltClock s).mem = s.mem := rfl
@[simp] theorem haltClock_card (s : State) : (haltClock s).card = s.card := rfl
@[simp] theorem haltClock_log (s : State) :
    (haltClock s).log = portEvent s.h (.write .clkCtrl s.cfg.clkDisabled) :: s.log := rfl
@[simp] theorem haltClock_inputs (s : State) : (haltClock s).inputs = s.inputs := rfl
@[simp] theorem haltClock_finalized (s : State) : (haltClock s).finalized = s.finalized := rfl

/-! ### setDma -/

@[simp] theorem setDma_cfg (d : DmaState) (s : State) : (setDma d s).cfg = s.cfg := rfl
@[simp] theorem setDma_h (d : DmaState) (s : State) : (setDma d s).h = { s.h with dmaState := d } := rfl
@[simp] theorem setDma_io (d : DmaState) (s : State) : (setDma d s).io = s.io := rfl
@[simp] theorem setDma_seq (d : DmaState) (s : State) : (setDma d s).seq = s.seq := rfl
@[simp] theorem setDma_env (d : DmaState) (s : State) : (setDma d s).env = s.env := rfl
@[simp] theorem setDma_mem (d : DmaState) (s : State) : (setDma d s).mem = s.mem := rfl
@[simp] theorem setDma_card (d : DmaState) (s : State) : (setDma d s).card = s.card := rfl
@[simp] theorem setDma_log (d : DmaState) (s : State) : (setDma d s).log = s.log := rfl
@[simp] theorem setDma_inputs (d : DmaState) (s : State) : (setDma d s).inputs = s.inputs := rfl
@[simp] theorem setDma_finalized (d : DmaState) (s : State) : (setDma d s).finalized = s.finalized := rfl

/-! ### forgetCopies -/

@[simp] theorem forgetCopies_cfg (s : State) : (forgetCopies s).cfg = s.cfg := rfl
@[simp] theorem forgetCopies_h (s : State) : (forgetCopies s).h = s.h := rfl
@[simp] theorem forgetCopies_io (s : State) : (forgetCopies s).io = s.io := rfl
@[simp] theorem forgetCopies_seq (s : State) : (forgetCopies s).seq = { s.seq with copied := 0 } := rfl
@[simp] theorem forgetCopies_env (s : State) : (forgetCopies s).env = s.env := rfl
@[simp] theorem forgetCopies_mem (s : State) : (forgetCopies s).mem = s.mem := rfl
@[simp] theorem forgetCopies_card (s : State) : (forgetCopies s).card = s.card := rfl
@[simp] theorem forgetCopies_log (s : State) : (forgetCopies s).log = s.log := rfl
@[simp] theorem forgetCopies_inputs (s : State) : (forgetCopies s).inputs = s.inputs := rfl
@[simp] theorem forgetCopies_finalized (s : State) : (forgetCopies s).finalized = s.finalized := rfl

/-! ### countCopy -/

@[simp] theorem countCopy_cfg (s : State) : (countCopy s).cfg = s.cfg := rfl
@[simp] theorem countCopy_h (s : State) : (countCopy s).h = s.h := rfl
@[simp] theorem countCopy_io (s : State) : (countCopy s).io = s.io := rfl
@[simp] theorem countCopy_seq (s : State) : (countCopy s).seq = { s.seq with copied := s.seq.copied + 1 } := rfl
@[simp] theorem countCopy_env (s : State) : (countCopy s).env = s.env := rfl
@[simp] theorem countCopy_mem (s : State) : (countCopy s).mem = s.mem := rfl
@[simp] theorem countCopy_card (s : State) : (countCopy s).card = s.card := rfl
@[simp] theorem countCopy_log (s : State) : (countCopy s).log = s.log := rfl
@[simp] theorem countCopy_inputs (s : State) : (countCopy s).inputs = s.inputs := rfl
@[simp] theorem countCopy_finalized (s : State) : (countCopy s).finalized = s.finalized := rfl

/-! ### selectBus -/

@[simp] theorem selectBus_cfg (w : BusWidth) (s : State) : (selectBus w s).cfg = s.cfg := rfl
@[simp] theorem selectBus_h (w : BusWidth) (s : State) : (selectBus w s).h = { s.h with busWidth := w } := rfl
@[simp] theorem selectBus_io (w : BusWidth) (s : State) : (selectBus w s).io = s.io := rfl
@[simp] theorem selectBus_seq (w : BusWidth) (s : State) : (selectBus w s).seq = s.seq := rfl
@[simp] theorem selectBus_env (w : BusWidth) (s : State) : (selectBus w s).env = s.env := rfl
@[simp] theorem selectBus_mem (w : BusWidth) (s : State) : (selectBus w s).mem = s.mem := rfl
@[simp] theorem selectBus_card (w : BusWidth) (s : State) : (selectBus w s).card = s.card := rfl
@[simp] theorem selectBus_log (w : BusWidth) (s : State) : (selectBus w s).log = portEvent s.h (.busSelect w) :: s.log := rfl
@[simp] theorem selectBus_inputs (w : BusWidth) (s : State) : (selectBus w s).inputs = s.inputs := rfl
@[simp] theorem selectBus_finalized (w : BusWidth) (s : State) : (selectBus w s).finalized = s.finalized := rfl

/-! ### setError -/

@[simp] theorem setError_cfg (e : ErrorKind) (s : State) : (setError e s).cfg = s.cfg := rfl
@[simp] theorem setError_h (e : ErrorKind) (s : State) :
    (setError e s).h = { s.h with stickyError := some (s.h.stickyError.getD e) } := rfl
@[simp] theorem setError_io (e : ErrorKind) (s : State) : (setError e s).io = s.io := rfl
@[simp] theorem setError_seq (e : ErrorKind) (s : State) : (setError e s).seq = s.seq := rfl
@[simp] theorem setError_env (e : ErrorKind) (s : State) : (setError e s).env = s.env := rfl
@[simp] theorem setError_mem (e : ErrorKind) (s : State) : (setError e s).mem = s.mem := rfl
@[simp] theorem setError_card (e : ErrorKind) (s : State) : (setError e s).card = s.card := rfl
@[simp] theorem setError_log (e : ErrorKind) (s : State) : (setError e s).log = s.log := rfl
@[simp] theorem setError_inputs (e : ErrorKind) (s : State) : (setError e s).inputs = s.inputs := rfl
@[simp] theorem setError_finalized (e : ErrorKind) (s : State) : (setError e s).finalized = s.finalized := rfl

/-! ### clearError -/

@[simp] theorem clearError_cfg (s : State) : (clearError s).cfg = s.cfg := rfl
@[simp] theorem clearError_h (s : State) : (clearError s).h = { s.h with stickyError := none } := rfl
@[simp] theorem clearError_io (s : State) : (clearError s).io = s.io := rfl
@[simp] theorem clearError_seq (s : State) : (clearError s).seq = s.seq := rfl
@[simp] theorem clearError_env (s : State) : (clearError s).env = s.env := rfl
@[simp] theorem clearError_mem (s : State) : (clearError s).mem = s.mem := rfl
@[simp] theorem clearError_card (s : State) : (clearError s).card = s.card := rfl
@[simp] theorem clearError_log (s : State) : (clearError s).log = s.log := rfl
@[simp] theorem clearError_inputs (s : State) : (clearError s).inputs = s.inputs := rfl
@[simp] theorem clearError_finalized (s : State) : (clearError s).finalized = s.finalized := rfl

/-! ### beginOp -/

@[simp] theorem beginOp_cfg (p : Phase) (s : State) : (beginOp p s).cfg = s.cfg := rfl
@[simp] theorem beginOp_h (p : Phase) (s : State) :
    (beginOp p s).h = { s.h with opActive := true, phase := p, stickyError := none } := rfl
@[simp] theorem beginOp_io (p : Phase) (s : State) : (beginOp p s).io = s.io := rfl
@[simp] theorem beginOp_seq (p : Phase) (s : State) : (beginOp p s).seq = Sequencer.reset := rfl
@[simp] theorem beginOp_env (p : Phase) (s : State) : (beginOp p s).env = s.env := rfl
@[simp] theorem beginOp_mem (p : Phase) (s : State) : (beginOp p s).mem = s.mem := rfl
@[simp] theorem beginOp_card (p : Phase) (s : State) : (beginOp p s).card = s.card := rfl
@[simp] theorem beginOp_log (p : Phase) (s : State) : (beginOp p s).log = s.log := rfl
@[simp] theorem beginOp_inputs (p : Phase) (s : State) : (beginOp p s).inputs = s.inputs := rfl
@[simp] theorem beginOp_finalized (p : Phase) (s : State) : (beginOp p s).finalized = s.finalized := rfl

/-! ### finish -/

@[simp] theorem finish_cfg (own : Word) (s : State) : (finish own s).cfg = s.cfg := rfl
@[simp] theorem finish_h (own : Word) (s : State) :
    (finish own s).h = { s.h with phase := .idle, opActive := false, req := none } := rfl
@[simp] theorem finish_io (own : Word) (s : State) :
    (finish own s).io = { s.io with result := resultOf own s.h.stickyError } := rfl
@[simp] theorem finish_seq (own : Word) (s : State) :
    (finish own s).seq = { s.seq with staged := none, done := none } := rfl
@[simp] theorem finish_env (own : Word) (s : State) : (finish own s).env = s.env := rfl
@[simp] theorem finish_mem (own : Word) (s : State) : (finish own s).mem = s.mem := rfl
@[simp] theorem finish_card (own : Word) (s : State) : (finish own s).card = s.card := rfl
@[simp] theorem finish_log (own : Word) (s : State) : (finish own s).log = s.log := rfl
@[simp] theorem finish_inputs (own : Word) (s : State) : (finish own s).inputs = s.inputs := rfl
@[simp] theorem finish_finalized (own : Word) (s : State) : (finish own s).finalized = s.finalized := rfl

/-! ### failOp -/

@[simp] theorem failOp_cfg (e : ErrorKind) (s : State) : (failOp e s).cfg = s.cfg := rfl
@[simp] theorem failOp_h (e : ErrorKind) (s : State) :
    (failOp e s).h = { s.h with stickyError := some (s.h.stickyError.getD e), phase := .idle, opActive := false, req := none } := rfl
@[simp] theorem failOp_io (e : ErrorKind) (s : State) :
    (failOp e s).io = { s.io with result := errorResult (s.h.stickyError.getD e) } := rfl
@[simp] theorem failOp_seq (e : ErrorKind) (s : State) :
    (failOp e s).seq = { s.seq with staged := none, done := none } := rfl
@[simp] theorem failOp_env (e : ErrorKind) (s : State) : (failOp e s).env = s.env := rfl
@[simp] theorem failOp_mem (e : ErrorKind) (s : State) : (failOp e s).mem = s.mem := rfl
@[simp] theorem failOp_card (e : ErrorKind) (s : State) : (failOp e s).card = s.card := rfl
@[simp] theorem failOp_log (e : ErrorKind) (s : State) : (failOp e s).log = s.log := rfl
@[simp] theorem failOp_inputs (e : ErrorKind) (s : State) : (failOp e s).inputs = s.inputs := rfl
@[simp] theorem failOp_finalized (e : ErrorKind) (s : State) : (failOp e s).finalized = s.finalized := rfl

/-! ### stage -/

@[simp] theorem stage_cfg (p : Phase) (cmd : Indices → BitVec 6) (arg : Word) (s : State) :
    (stage p cmd arg s).cfg = s.cfg := rfl
@[simp] theorem stage_h (p : Phase) (cmd : Indices → BitVec 6) (arg : Word) (s : State) :
    (stage p cmd arg s).h = { s.h with phase := p } := rfl
@[simp] theorem stage_io (p : Phase) (cmd : Indices → BitVec 6) (arg : Word) (s : State) :
    (stage p cmd arg s).io = s.io := rfl
@[simp] theorem stage_seq (p : Phase) (cmd : Indices → BitVec 6) (arg : Word) (s : State) :
    (stage p cmd arg s).seq = { s.seq with staged := some ⟨frameHead (cmd s.cfg.index), arg⟩, done := none, app := false } := rfl
@[simp] theorem stage_env (p : Phase) (cmd : Indices → BitVec 6) (arg : Word) (s : State) :
    (stage p cmd arg s).env = s.env := rfl
@[simp] theorem stage_mem (p : Phase) (cmd : Indices → BitVec 6) (arg : Word) (s : State) :
    (stage p cmd arg s).mem = s.mem := rfl
@[simp] theorem stage_card (p : Phase) (cmd : Indices → BitVec 6) (arg : Word) (s : State) :
    (stage p cmd arg s).card = s.card := rfl
@[simp] theorem stage_log (p : Phase) (cmd : Indices → BitVec 6) (arg : Word) (s : State) :
    (stage p cmd arg s).log = s.log := rfl
@[simp] theorem stage_inputs (p : Phase) (cmd : Indices → BitVec 6) (arg : Word) (s : State) :
    (stage p cmd arg s).inputs = s.inputs := rfl
@[simp] theorem stage_finalized (p : Phase) (cmd : Indices → BitVec 6) (arg : Word) (s : State) :
    (stage p cmd arg s).finalized = s.finalized := rfl

/-! ### stageAcmd -/

@[simp] theorem stageAcmd_cfg (p : Phase) (cmd : Indices → BitVec 6) (arg : Word) (s : State) :
    (stageAcmd p cmd arg s).cfg = s.cfg := rfl
@[simp] theorem stageAcmd_h (p : Phase) (cmd : Indices → BitVec 6) (arg : Word) (s : State) :
    (stageAcmd p cmd arg s).h = { s.h with phase := p } := rfl
@[simp] theorem stageAcmd_io (p : Phase) (cmd : Indices → BitVec 6) (arg : Word) (s : State) :
    (stageAcmd p cmd arg s).io = s.io := rfl
@[simp] theorem stageAcmd_seq (p : Phase) (cmd : Indices → BitVec 6) (arg : Word) (s : State) :
    (stageAcmd p cmd arg s).seq = { s.seq with staged := some ⟨frameHead (cmd s.cfg.index), arg⟩, done := none } := rfl
@[simp] theorem stageAcmd_env (p : Phase) (cmd : Indices → BitVec 6) (arg : Word) (s : State) :
    (stageAcmd p cmd arg s).env = s.env := rfl
@[simp] theorem stageAcmd_mem (p : Phase) (cmd : Indices → BitVec 6) (arg : Word) (s : State) :
    (stageAcmd p cmd arg s).mem = s.mem := rfl
@[simp] theorem stageAcmd_card (p : Phase) (cmd : Indices → BitVec 6) (arg : Word) (s : State) :
    (stageAcmd p cmd arg s).card = s.card := rfl
@[simp] theorem stageAcmd_log (p : Phase) (cmd : Indices → BitVec 6) (arg : Word) (s : State) :
    (stageAcmd p cmd arg s).log = s.log := rfl
@[simp] theorem stageAcmd_inputs (p : Phase) (cmd : Indices → BitVec 6) (arg : Word) (s : State) :
    (stageAcmd p cmd arg s).inputs = s.inputs := rfl
@[simp] theorem stageAcmd_finalized (p : Phase) (cmd : Indices → BitVec 6) (arg : Word) (s : State) :
    (stageAcmd p cmd arg s).finalized = s.finalized := rfl

/-! ### enterPhase -/

@[simp] theorem enterPhase_cfg (p : Phase) (s : State) : (enterPhase p s).cfg = s.cfg := rfl
@[simp] theorem enterPhase_h (p : Phase) (s : State) : (enterPhase p s).h = { s.h with phase := p } := rfl
@[simp] theorem enterPhase_io (p : Phase) (s : State) : (enterPhase p s).io = s.io := rfl
@[simp] theorem enterPhase_seq (p : Phase) (s : State) :
    (enterPhase p s).seq = { s.seq with staged := none, done := none } := rfl
@[simp] theorem enterPhase_env (p : Phase) (s : State) : (enterPhase p s).env = s.env := rfl
@[simp] theorem enterPhase_mem (p : Phase) (s : State) : (enterPhase p s).mem = s.mem := rfl
@[simp] theorem enterPhase_card (p : Phase) (s : State) : (enterPhase p s).card = s.card := rfl
@[simp] theorem enterPhase_log (p : Phase) (s : State) : (enterPhase p s).log = s.log := rfl
@[simp] theorem enterPhase_inputs (p : Phase) (s : State) : (enterPhase p s).inputs = s.inputs := rfl
@[simp] theorem enterPhase_finalized (p : Phase) (s : State) : (enterPhase p s).finalized = s.finalized := rfl

/-! ### endHostOp -/

@[simp] theorem endHostOp_cfg (s : State) : (endHostOp s).cfg = s.cfg := rfl
@[simp] theorem endHostOp_h (s : State) : (endHostOp s).h = { s.h with phase := .idle, opActive := false } := rfl
@[simp] theorem endHostOp_io (s : State) : (endHostOp s).io = { s.io with result := okResult } := rfl
@[simp] theorem endHostOp_seq (s : State) : (endHostOp s).seq = s.seq := rfl
@[simp] theorem endHostOp_env (s : State) : (endHostOp s).env = s.env := rfl
@[simp] theorem endHostOp_mem (s : State) : (endHostOp s).mem = s.mem := rfl
@[simp] theorem endHostOp_card (s : State) : (endHostOp s).card = s.card := rfl
@[simp] theorem endHostOp_log (s : State) : (endHostOp s).log = s.log := rfl
@[simp] theorem endHostOp_inputs (s : State) : (endHostOp s).inputs = s.inputs := rfl
@[simp] theorem endHostOp_finalized (s : State) : (endHostOp s).finalized = s.finalized := rfl

/-! ### latch -/

@[simp] theorem latch_cfg (w : RequestWords) (s : State) : (latch w s).cfg = s.cfg := rfl
@[simp] theorem latch_h (w : RequestWords) (s : State) : (latch w s).h = s.h := rfl
@[simp] theorem latch_io (w : RequestWords) (s : State) :
    (latch w s).io = { s.io with req := w.req, arg0 := w.arg0, arg1 := w.arg1, arg2 := w.arg2, arg3 := w.arg3, arg4 := w.arg4 } := rfl
@[simp] theorem latch_seq (w : RequestWords) (s : State) : (latch w s).seq = s.seq := rfl
@[simp] theorem latch_env (w : RequestWords) (s : State) : (latch w s).env = s.env := rfl
@[simp] theorem latch_mem (w : RequestWords) (s : State) : (latch w s).mem = s.mem := rfl
@[simp] theorem latch_card (w : RequestWords) (s : State) : (latch w s).card = s.card := rfl
@[simp] theorem latch_log (w : RequestWords) (s : State) : (latch w s).log = s.log := rfl
@[simp] theorem latch_inputs (w : RequestWords) (s : State) : (latch w s).inputs = s.inputs := rfl
@[simp] theorem latch_finalized (w : RequestWords) (s : State) : (latch w s).finalized = s.finalized := rfl

/-! ### resetCardFields -/

@[simp] theorem resetCardFields_cfg (s : State) : (resetCardFields s).cfg = s.cfg := rfl
@[simp] theorem resetCardFields_io (s : State) : (resetCardFields s).io = s.io := rfl
@[simp] theorem resetCardFields_seq (s : State) : (resetCardFields s).seq = s.seq := rfl
@[simp] theorem resetCardFields_env (s : State) : (resetCardFields s).env = s.env := rfl
@[simp] theorem resetCardFields_mem (s : State) : (resetCardFields s).mem = s.mem := rfl
@[simp] theorem resetCardFields_card (s : State) : (resetCardFields s).card = s.card := rfl
@[simp] theorem resetCardFields_log (s : State) : (resetCardFields s).log = portEvent s.h (.busSelect .one) :: s.log := rfl
@[simp] theorem resetCardFields_inputs (s : State) : (resetCardFields s).inputs = s.inputs := rfl
@[simp] theorem resetCardFields_finalized (s : State) : (resetCardFields s).finalized = s.finalized := rfl

/-! ### pollDelay -/

@[simp] theorem pollDelay_cfg (s : State) : (pollDelay s).cfg = s.cfg := rfl
@[simp] theorem pollDelay_h (s : State) : (pollDelay s).h = s.h := rfl
@[simp] theorem pollDelay_io (s : State) : (pollDelay s).io = s.io := rfl
@[simp] theorem pollDelay_seq (s : State) : (pollDelay s).seq = s.seq := rfl
@[simp] theorem pollDelay_env (s : State) : (pollDelay s).env = s.env := rfl
@[simp] theorem pollDelay_mem (s : State) : (pollDelay s).mem = s.mem := rfl
@[simp] theorem pollDelay_card (s : State) : (pollDelay s).card = s.card := rfl
@[simp] theorem pollDelay_log (s : State) : (pollDelay s).log = portEvent s.h (.delay s.cfg.ocrPollWait) :: s.log := rfl
@[simp] theorem pollDelay_inputs (s : State) : (pollDelay s).inputs = s.inputs := rfl
@[simp] theorem pollDelay_finalized (s : State) : (pollDelay s).finalized = s.finalized := rfl

/-! ### readSts2 -/

@[simp] theorem readSts2_cfg (s : State) : ((readSts2 s).2).cfg = s.cfg := by
  unfold readSts2; split <;> rfl
@[simp] theorem readSts2_h (s : State) : ((readSts2 s).2).h = s.h := by
  unfold readSts2; split <;> rfl
@[simp] theorem readSts2_io (s : State) : ((readSts2 s).2).io = s.io := by
  unfold readSts2; split <;> rfl
@[simp] theorem readSts2_seq (s : State) : ((readSts2 s).2).seq = s.seq := by
  unfold readSts2; split <;> rfl
@[simp] theorem readSts2_mem (s : State) : ((readSts2 s).2).mem = s.mem := by
  unfold readSts2; split <;> rfl
@[simp] theorem readSts2_card (s : State) : ((readSts2 s).2).card = s.card := by
  unfold readSts2; split <;> rfl
@[simp] theorem readSts2_log (s : State) : ((readSts2 s).2).log = portEvent s.h (.read .sts2) :: s.log := by
  unfold readSts2; split <;> rfl
@[simp] theorem readSts2_inputs (s : State) : ((readSts2 s).2).inputs = s.inputs := by
  unfold readSts2; split <;> rfl
@[simp] theorem readSts2_finalized (s : State) : ((readSts2 s).2).finalized = s.finalized := by
  unfold readSts2; split <;> rfl

/-! ### readRsp -/

@[simp] theorem readRsp_cfg (s : State) : ((readRsp s).2).cfg = s.cfg := by
  unfold readRsp; split <;> rfl
@[simp] theorem readRsp_h (s : State) : ((readRsp s).2).h = s.h := by
  unfold readRsp; split <;> rfl
@[simp] theorem readRsp_io (s : State) : ((readRsp s).2).io = s.io := by
  unfold readRsp; split <;> rfl
@[simp] theorem readRsp_seq (s : State) : ((readRsp s).2).seq = s.seq := by
  unfold readRsp; split <;> rfl
@[simp] theorem readRsp_mem (s : State) : ((readRsp s).2).mem = s.mem := by
  unfold readRsp; split <;> rfl
@[simp] theorem readRsp_card (s : State) : ((readRsp s).2).card = s.card := by
  unfold readRsp; split <;> rfl
@[simp] theorem readRsp_log (s : State) : ((readRsp s).2).log = portEvent s.h (.read .rsp) :: s.log := by
  unfold readRsp; split <;> rfl
@[simp] theorem readRsp_inputs (s : State) : ((readRsp s).2).inputs = s.inputs := by
  unfold readRsp; split <;> rfl
@[simp] theorem readRsp_finalized (s : State) : ((readRsp s).2).finalized = s.finalized := by
  unfold readRsp; split <;> rfl

/-! ### readImage -/

@[simp] theorem readImage_cfg (s : State) : ((readImage s).2).cfg = s.cfg := by simp [readImage]
@[simp] theorem readImage_h (s : State) : ((readImage s).2).h = s.h := by simp [readImage]
@[simp] theorem readImage_io (s : State) : ((readImage s).2).io = s.io := by simp [readImage]
@[simp] theorem readImage_seq (s : State) : ((readImage s).2).seq = s.seq := by simp [readImage]
@[simp] theorem readImage_mem (s : State) : ((readImage s).2).mem = s.mem := by simp [readImage]
@[simp] theorem readImage_card (s : State) : ((readImage s).2).card = s.card := by simp [readImage]
@[simp] theorem readImage_log (s : State) :
    ((readImage s).2).log = portEvent s.h (.read .rsp) :: portEvent s.h (.read .rsp) :: s.log := by
  simp [readImage]
@[simp] theorem readImage_inputs (s : State) : ((readImage s).2).inputs = s.inputs := by simp [readImage]
@[simp] theorem readImage_finalized (s : State) : ((readImage s).2).finalized = s.finalized := by simp [readImage]

/-! ### drawReg -/

@[simp] theorem drawReg_cfg (s : State) : ((drawReg s).2).cfg = s.cfg := by
  unfold drawReg; split <;> rfl
@[simp] theorem drawReg_h (s : State) : ((drawReg s).2).h = s.h := by
  unfold drawReg; split <;> rfl
@[simp] theorem drawReg_io (s : State) : ((drawReg s).2).io = s.io := by
  unfold drawReg; split <;> rfl
@[simp] theorem drawReg_seq (s : State) : ((drawReg s).2).seq = s.seq := by
  unfold drawReg; split <;> rfl
@[simp] theorem drawReg_mem (s : State) : ((drawReg s).2).mem = s.mem := by
  unfold drawReg; split <;> rfl
@[simp] theorem drawReg_card (s : State) : ((drawReg s).2).card = s.card := by
  unfold drawReg; split <;> rfl
@[simp] theorem drawReg_log (s : State) : ((drawReg s).2).log = s.log := by
  unfold drawReg; split <;> rfl
@[simp] theorem drawReg_inputs (s : State) : ((drawReg s).2).inputs = s.inputs := by
  unfold drawReg; split <;> rfl
@[simp] theorem drawReg_finalized (s : State) : ((drawReg s).2).finalized = s.finalized := by
  unfold drawReg; split <;> rfl

/-! ### readCardDetect -/

@[simp] theorem readCardDetect_cfg (s : State) : ((readCardDetect s).2).cfg = s.cfg := by
  unfold readCardDetect; split <;> rfl
@[simp] theorem readCardDetect_h (s : State) : ((readCardDetect s).2).h = s.h := by
  unfold readCardDetect; split <;> rfl
@[simp] theorem readCardDetect_io (s : State) : ((readCardDetect s).2).io = s.io := by
  unfold readCardDetect; split <;> rfl
@[simp] theorem readCardDetect_seq (s : State) : ((readCardDetect s).2).seq = s.seq := by
  unfold readCardDetect; split <;> rfl
@[simp] theorem readCardDetect_mem (s : State) : ((readCardDetect s).2).mem = s.mem := by
  unfold readCardDetect; split <;> rfl
@[simp] theorem readCardDetect_card (s : State) : ((readCardDetect s).2).card = s.card := by
  unfold readCardDetect; split <;> rfl
@[simp] theorem readCardDetect_log (s : State) : ((readCardDetect s).2).log = portEvent s.h .cardDetectLevel :: s.log := by
  unfold readCardDetect; split <;> rfl
@[simp] theorem readCardDetect_inputs (s : State) : ((readCardDetect s).2).inputs = s.inputs := by
  unfold readCardDetect; split <;> rfl
@[simp] theorem readCardDetect_finalized (s : State) : ((readCardDetect s).2).finalized = s.finalized := by
  unfold readCardDetect; split <;> rfl

/-! ### readWriteProtect -/

@[simp] theorem readWriteProtect_cfg (s : State) : ((readWriteProtect s).2).cfg = s.cfg := by
  unfold readWriteProtect; split <;> rfl
@[simp] theorem readWriteProtect_h (s : State) : ((readWriteProtect s).2).h = s.h := by
  unfold readWriteProtect; split <;> rfl
@[simp] theorem readWriteProtect_io (s : State) : ((readWriteProtect s).2).io = s.io := by
  unfold readWriteProtect; split <;> rfl
@[simp] theorem readWriteProtect_seq (s : State) : ((readWriteProtect s).2).seq = s.seq := by
  unfold readWriteProtect; split <;> rfl
@[simp] theorem readWriteProtect_mem (s : State) : ((readWriteProtect s).2).mem = s.mem := by
  unfold readWriteProtect; split <;> rfl
@[simp] theorem readWriteProtect_card (s : State) : ((readWriteProtect s).2).card = s.card := by
  unfold readWriteProtect; split <;> rfl
@[simp] theorem readWriteProtect_log (s : State) : ((readWriteProtect s).2).log = portEvent s.h .writeProtectLevel :: s.log := by
  unfold readWriteProtect; split <;> rfl
@[simp] theorem readWriteProtect_inputs (s : State) : ((readWriteProtect s).2).inputs = s.inputs := by
  unfold readWriteProtect; split <;> rfl
@[simp] theorem readWriteProtect_finalized (s : State) : ((readWriteProtect s).2).finalized = s.finalized := by
  unfold readWriteProtect; split <;> rfl

/-! ### drawRom -/

@[simp] theorem drawRom_cfg (s : State) : ((drawRom s).2).cfg = s.cfg := by
  unfold drawRom; split <;> rfl
@[simp] theorem drawRom_h (s : State) : ((drawRom s).2).h = s.h := by
  unfold drawRom; split <;> rfl
@[simp] theorem drawRom_io (s : State) : ((drawRom s).2).io = s.io := by
  unfold drawRom; split <;> rfl
@[simp] theorem drawRom_seq (s : State) : ((drawRom s).2).seq = s.seq := by
  unfold drawRom; split <;> rfl
@[simp] theorem drawRom_mem (s : State) : ((drawRom s).2).mem = s.mem := by
  unfold drawRom; split <;> rfl
@[simp] theorem drawRom_card (s : State) : ((drawRom s).2).card = s.card := by
  unfold drawRom; split <;> rfl
@[simp] theorem drawRom_log (s : State) : ((drawRom s).2).log = s.log := by
  unfold drawRom; split <;> rfl
@[simp] theorem drawRom_inputs (s : State) : ((drawRom s).2).inputs = s.inputs := by
  unfold drawRom; split <;> rfl
@[simp] theorem drawRom_finalized (s : State) : ((drawRom s).2).finalized = s.finalized := by
  unfold drawRom; split <;> rfl

/-! ### eventArrives -/

@[simp] theorem eventArrives_cfg (cs : List EventClass) (s : State) : ((eventArrives cs s).2).cfg = s.cfg := by
  unfold eventArrives; split <;> rfl
@[simp] theorem eventArrives_h (cs : List EventClass) (s : State) : ((eventArrives cs s).2).h = s.h := by
  unfold eventArrives; split <;> rfl
@[simp] theorem eventArrives_io (cs : List EventClass) (s : State) : ((eventArrives cs s).2).io = s.io := by
  unfold eventArrives; split <;> rfl
@[simp] theorem eventArrives_seq (cs : List EventClass) (s : State) : ((eventArrives cs s).2).seq = s.seq := by
  unfold eventArrives; split <;> rfl
@[simp] theorem eventArrives_mem (cs : List EventClass) (s : State) : ((eventArrives cs s).2).mem = s.mem := by
  unfold eventArrives; split <;> rfl
@[simp] theorem eventArrives_card (cs : List EventClass) (s : State) : ((eventArrives cs s).2).card = s.card := by
  unfold eventArrives; split <;> rfl
@[simp] theorem eventArrives_log (cs : List EventClass) (s : State) : ((eventArrives cs s).2).log = s.log := by
  unfold eventArrives; split <;> rfl
@[simp] theorem eventArrives_inputs (cs : List EventClass) (s : State) : ((eventArrives cs s).2).inputs = s.inputs := by
  unfold eventArrives; split <;> rfl
@[simp] theorem eventArrives_finalized (cs : List EventClass) (s : State) : ((eventArrives cs s).2).finalized = s.finalized := by
  unfold eventArrives; split <;> rfl

/-! ### Operations built from these -/

@[simp] theorem readReg_cfg (r : PortReg) (s : State) : ((readReg r s).2).cfg = s.cfg := by simp [readReg]
@[simp] theorem readReg_h (r : PortReg) (s : State) : ((readReg r s).2).h = s.h := by simp [readReg]
@[simp] theorem readReg_io (r : PortReg) (s : State) : ((readReg r s).2).io = s.io := by simp [readReg]
@[simp] theorem readReg_seq (r : PortReg) (s : State) : ((readReg r s).2).seq = s.seq := by simp [readReg]
@[simp] theorem readReg_mem (r : PortReg) (s : State) : ((readReg r s).2).mem = s.mem := by simp [readReg]
@[simp] theorem readReg_card (r : PortReg) (s : State) : ((readReg r s).2).card = s.card := by simp [readReg]
@[simp] theorem readReg_inputs (r : PortReg) (s : State) : ((readReg r s).2).inputs = s.inputs := by simp [readReg]
@[simp] theorem readReg_finalized (r : PortReg) (s : State) : ((readReg r s).2).finalized = s.finalized := by simp [readReg]

@[simp] theorem portWait_cfg (tc : TimeoutClass) (s : State) : ((portWait tc s).2).cfg = s.cfg := by simp [portWait]
@[simp] theorem portWait_h (tc : TimeoutClass) (s : State) : ((portWait tc s).2).h = s.h := by simp [portWait]
@[simp] theorem portWait_io (tc : TimeoutClass) (s : State) : ((portWait tc s).2).io = s.io := by simp [portWait]
@[simp] theorem portWait_seq (tc : TimeoutClass) (s : State) : ((portWait tc s).2).seq = s.seq := by simp [portWait]
@[simp] theorem portWait_mem (tc : TimeoutClass) (s : State) : ((portWait tc s).2).mem = s.mem := by simp [portWait]
@[simp] theorem portWait_card (tc : TimeoutClass) (s : State) : ((portWait tc s).2).card = s.card := by simp [portWait]
@[simp] theorem portWait_inputs (tc : TimeoutClass) (s : State) : ((portWait tc s).2).inputs = s.inputs := by simp [portWait]
@[simp] theorem portWait_finalized (tc : TimeoutClass) (s : State) : ((portWait tc s).2).finalized = s.finalized := by simp [portWait]

@[simp] theorem maskedWait_cfg (cs : List EventClass) (tc : TimeoutClass) (s : State) : ((maskedWait cs tc s).2).cfg = s.cfg := by simp [maskedWait]
@[simp] theorem maskedWait_io (cs : List EventClass) (tc : TimeoutClass) (s : State) : ((maskedWait cs tc s).2).io = s.io := by simp [maskedWait]
@[simp] theorem maskedWait_seq (cs : List EventClass) (tc : TimeoutClass) (s : State) : ((maskedWait cs tc s).2).seq = s.seq := by simp [maskedWait]
@[simp] theorem maskedWait_mem (cs : List EventClass) (tc : TimeoutClass) (s : State) : ((maskedWait cs tc s).2).mem = s.mem := by simp [maskedWait]
@[simp] theorem maskedWait_card (cs : List EventClass) (tc : TimeoutClass) (s : State) : ((maskedWait cs tc s).2).card = s.card := by simp [maskedWait]
@[simp] theorem maskedWait_inputs (cs : List EventClass) (tc : TimeoutClass) (s : State) : ((maskedWait cs tc s).2).inputs = s.inputs := by simp [maskedWait]
@[simp] theorem maskedWait_finalized (cs : List EventClass) (tc : TimeoutClass) (s : State) : ((maskedWait cs tc s).2).finalized = s.finalized := by simp [maskedWait]

@[simp] theorem readStatus_cfg (b : Bool) (s : State) : ((readStatus b s).2).cfg = s.cfg := by simp [readStatus]
@[simp] theorem readStatus_io (b : Bool) (s : State) : ((readStatus b s).2).io = s.io := by simp [readStatus]
@[simp] theorem readStatus_seq (b : Bool) (s : State) : ((readStatus b s).2).seq = s.seq := by simp [readStatus]
@[simp] theorem readStatus_mem (b : Bool) (s : State) : ((readStatus b s).2).mem = s.mem := by simp [readStatus]
@[simp] theorem readStatus_card (b : Bool) (s : State) : ((readStatus b s).2).card = s.card := by simp [readStatus]
@[simp] theorem readStatus_inputs (b : Bool) (s : State) : ((readStatus b s).2).inputs = s.inputs := by simp [readStatus]
@[simp] theorem readStatus_finalized (b : Bool) (s : State) : ((readStatus b s).2).finalized = s.finalized := by simp [readStatus]

@[simp] theorem takeR1_cfg (s : State) : (takeR1 s).cfg = s.cfg := by simp [takeR1]
@[simp] theorem takeR1_io (s : State) : (takeR1 s).io = s.io := by simp [takeR1]
@[simp] theorem takeR1_seq (s : State) : (takeR1 s).seq = s.seq := by simp [takeR1]
@[simp] theorem takeR1_mem (s : State) : (takeR1 s).mem = s.mem := by simp [takeR1]
@[simp] theorem takeR1_card (s : State) : (takeR1 s).card = s.card := by simp [takeR1]
@[simp] theorem takeR1_inputs (s : State) : (takeR1 s).inputs = s.inputs := by simp [takeR1]
@[simp] theorem takeR1_finalized (s : State) : (takeR1 s).finalized = s.finalized := by simp [takeR1]

@[simp] theorem samplePresence_cfg (s : State) : (samplePresence s).cfg = s.cfg := by
  unfold samplePresence; split <;> simp
@[simp] theorem samplePresence_io (s : State) : (samplePresence s).io = s.io := by
  unfold samplePresence; split <;> simp
@[simp] theorem samplePresence_seq (s : State) : (samplePresence s).seq = s.seq := by
  unfold samplePresence; split <;> simp
@[simp] theorem samplePresence_mem (s : State) : (samplePresence s).mem = s.mem := by
  unfold samplePresence; split <;> simp
@[simp] theorem samplePresence_card (s : State) : (samplePresence s).card = s.card := by
  unfold samplePresence; split <;> simp
@[simp] theorem samplePresence_inputs (s : State) : (samplePresence s).inputs = s.inputs := by
  unfold samplePresence; split <;> simp
@[simp] theorem samplePresence_finalized (s : State) : (samplePresence s).finalized = s.finalized := by
  unfold samplePresence; split <;> simp

@[simp] theorem selectClock_cfg (f : ClockFreq) (s : State) : (selectClock f s).cfg = s.cfg := by simp [selectClock]
@[simp] theorem selectClock_io (f : ClockFreq) (s : State) : (selectClock f s).io = s.io := by simp [selectClock]
@[simp] theorem selectClock_seq (f : ClockFreq) (s : State) : (selectClock f s).seq = s.seq := by simp [selectClock]
@[simp] theorem selectClock_mem (f : ClockFreq) (s : State) : (selectClock f s).mem = s.mem := by simp [selectClock]
@[simp] theorem selectClock_card (f : ClockFreq) (s : State) : (selectClock f s).card = s.card := by simp [selectClock]
@[simp] theorem selectClock_inputs (f : ClockFreq) (s : State) : (selectClock f s).inputs = s.inputs := by simp [selectClock]
@[simp] theorem selectClock_finalized (f : ClockFreq) (s : State) : (selectClock f s).finalized = s.finalized := by simp [selectClock]

@[simp] theorem startClock_cfg (f : ClockFreq) (s : State) : (startClock f s).cfg = s.cfg := by simp [startClock]
@[simp] theorem startClock_io (f : ClockFreq) (s : State) : (startClock f s).io = s.io := by simp [startClock]
@[simp] theorem startClock_seq (f : ClockFreq) (s : State) : (startClock f s).seq = s.seq := by simp [startClock]
@[simp] theorem startClock_mem (f : ClockFreq) (s : State) : (startClock f s).mem = s.mem := by simp [startClock]
@[simp] theorem startClock_card (f : ClockFreq) (s : State) : (startClock f s).card = s.card := by simp [startClock]
@[simp] theorem startClock_inputs (f : ClockFreq) (s : State) : (startClock f s).inputs = s.inputs := by simp [startClock]
@[simp] theorem startClock_finalized (f : ClockFreq) (s : State) : (startClock f s).finalized = s.finalized := by simp [startClock]

@[simp] theorem maskedWait_h (cs : List EventClass) (tc : TimeoutClass) (s : State) :
    (maskedWait cs tc s).2.h = { s.h with irqMask := [] } := by simp [maskedWait]

/-- After a wait the STS2 value is kept, whatever ended it (R164). -/
@[simp] theorem readStatus_h (b : Bool) (s : State) :
    (readStatus b s).2.h = { s.h with lastSts2 := (readSts2 s).1 } := by simp [readStatus]

@[simp] theorem takeR1_h (s : State) : (takeR1 s).h = { s.h with lastR1 := (readRsp s).1.setWidth 32 } := by
  simp [takeR1]

@[simp] theorem selectClock_h (f : ClockFreq) (s : State) : (selectClock f s).h = { s.h with clockFreq := f } := by
  simp [selectClock]

@[simp] theorem startClock_h (f : ClockFreq) (s : State) :
    (startClock f s).h = { s.h with clockFreq := f, clockOn := true } := by simp [startClock]

/-- The presence sample writes no field but `card_present` (R49). -/
theorem samplePresence_h (s : State) :
    (samplePresence s).h = { s.h with cardPresent := (samplePresence s).h.cardPresent } := by
  unfold samplePresence; split <;> simp

/-! ### What lands inside a request -/

@[simp] theorem raiseStop_cfg (s : State) : (raiseStop s).cfg = s.cfg := rfl
@[simp] theorem raiseStop_h (s : State) : (raiseStop s).h = { s.h with compulsoryStop := true } := rfl
@[simp] theorem raiseStop_io (s : State) : (raiseStop s).io = s.io := rfl
@[simp] theorem raiseStop_seq (s : State) : (raiseStop s).seq = s.seq := rfl
@[simp] theorem raiseStop_env (s : State) : (raiseStop s).env = s.env := rfl
@[simp] theorem raiseStop_mem (s : State) : (raiseStop s).mem = s.mem := rfl
@[simp] theorem raiseStop_card (s : State) : (raiseStop s).card = s.card := rfl
@[simp] theorem raiseStop_log (s : State) : (raiseStop s).log = s.log := rfl
@[simp] theorem raiseStop_inputs (s : State) : (raiseStop s).inputs = s.inputs := rfl
@[simp] theorem raiseStop_finalized (s : State) : (raiseStop s).finalized = s.finalized := rfl

/-- What lands inside a request writes the two flags of R391, R392 and R355, the request words, and the model's own notes
of a removed card. -/
structure MidwayFrame (s t : State) : Prop where
  cfg : t.cfg = s.cfg
  io : t.io = { s.io with
    req := t.io.req, arg0 := t.io.arg0, arg1 := t.io.arg1, arg2 := t.io.arg2, arg3 := t.io.arg3, arg4 := t.io.arg4 }
  env : t.env = { s.env with during := t.env.during, cardLost := t.env.cardLost }
  mem : t.mem = s.mem
  card : t.card = s.card
  log : t.log = s.log
  inputs : t.inputs = s.inputs
  finalized : t.finalized = s.finalized
  h : t.h = { s.h with cardPresent := t.h.cardPresent, compulsoryStop := t.h.compulsoryStop }
  seq : t.seq = { s.seq with doubtful := t.seq.doubtful }
  stopKept : s.h.compulsoryStop = true → t.h.compulsoryStop = true

theorem MidwayFrame.refl (s : State) : MidwayFrame s s := ⟨rfl, rfl, rfl, rfl, rfl, rfl, rfl, rfl, rfl, rfl, id⟩

theorem MidwayFrame.trans {s t u : State} (a : MidwayFrame s t) (b : MidwayFrame t u) : MidwayFrame s u :=
  ⟨b.cfg.trans a.cfg, by rw [b.io, a.io], by rw [b.env, a.env], b.mem.trans a.mem, b.card.trans a.card,
    b.log.trans a.log, b.inputs.trans a.inputs, b.finalized.trans a.finalized, by rw [b.h, a.h], by rw [b.seq, a.seq],
    fun m => b.stopKept (a.stopKept m)⟩

theorem callback_frame (ev : EventClass) (channel : Nat) (s : State) : MidwayFrame s (callback ev channel s) := by
  unfold callback
  split
  · cases ev <;> constructor <;> first | rfl | exact id | exact fun _ => rfl
  · exact MidwayFrame.refl s

theorem midway_frame (m : Midway) (s : State) : MidwayFrame s (midway m s) := by
  cases m
  · exact callback_frame ..
  · exact ⟨rfl, rfl, rfl, rfl, rfl, rfl, rfl, rfl, rfl, rfl, fun _ => rfl⟩

theorem landing_frame (s : State) : MidwayFrame s (landing s) := by
  unfold landing
  split
  · exact MidwayFrame.refl s
  · rename_i acts rest _
    have kept : ∀ (l : List Midway) (t : State), MidwayFrame t (l.foldl (fun t m => midway m t) t) := fun l => by
      induction l with
      | nil => exact MidwayFrame.refl
      | cons m l ih => exact fun t => (midway_frame m t).trans (ih _)
    exact MidwayFrame.trans (t := { s with env.during := rest })
      ⟨rfl, rfl, rfl, rfl, rfl, rfl, rfl, rfl, rfl, rfl, id⟩ (kept acts _)

/-- Nothing lands where nothing is listed. -/
theorem landing_none {s : State} (h : s.env.during = []) : landing s = s := by unfold landing; rw [h]

/-- A request that is not turned away runs after what lands at its acceptance (R360, R432). -/
theorem accept_admitted {k : State → Result} {s : State} (live : s.finalized = false) (idle : s.h.opActive = false) :
    accept k s = k (landing s) := by simp [accept, live, idle]

end Sys2Proof.Laws
end

