-- ==== Sys2Proof/Laws/Port.lean ====
section
/-! SUPPORT. What the Command Engine and the data phases can change: one frame lemma per shared operation, which later
proofs cite and which unfolds it once. -/

namespace Sys2Proof.Laws

open Sys2Proof.Machine

/-! ### The frame of the Command Engine -/

/-- `t` differs from `s` at most in the Port's answers, the log, and the four handle fields `issue` and `resp_r1` write. -/
structure PortFrame (s t : State) : Prop where
  cfg : t.cfg = s.cfg
  io : t.io = s.io
  seq : t.seq = s.seq
  mem : t.mem = s.mem
  card : t.card = s.card
  inputs : t.inputs = s.inputs
  finalized : t.finalized = s.finalized
  h : t.h = { s.h with
    irqMask := t.h.irqMask, inFlight := t.h.inFlight, lastR1 := t.h.lastR1, lastSts2 := t.h.lastSts2 }
  mask : s.h.irqMask = [] → t.h.irqMask = []
  inFlight : s.h.inFlight = false → t.h.inFlight = false

theorem PortFrame.refl (s : State) : PortFrame s s := ⟨rfl, rfl, rfl, rfl, rfl, rfl, rfl, rfl, id, id⟩

theorem PortFrame.trans {s t u : State} (a : PortFrame s t) (b : PortFrame t u) : PortFrame s u where
  cfg := b.cfg.trans a.cfg
  io := b.io.trans a.io
  seq := b.seq.trans a.seq
  mem := b.mem.trans a.mem
  card := b.card.trans a.card
  inputs := b.inputs.trans a.inputs
  finalized := b.finalized.trans a.finalized
  h := by rw [b.h, a.h]
  mask := fun m => b.mask (a.mask m)
  inFlight := fun m => b.inFlight (a.inFlight m)

/-- An operation that changes only the Port's answers and the log. -/
theorem PortFrame.ofQuiet {s t : State} (cfg : t.cfg = s.cfg) (h : t.h = s.h) (io : t.io = s.io) (seq : t.seq = s.seq)
    (mem : t.mem = s.mem) (card : t.card = s.card) (inputs : t.inputs = s.inputs)
    (finalized : t.finalized = s.finalized) : PortFrame s t :=
  ⟨cfg, io, seq, mem, card, inputs, finalized, by rw [h], by rw [h]; exact id, by rw [h]; exact id⟩

theorem readSts2_frame (s : State) : PortFrame s (readSts2 s).2 := by apply PortFrame.ofQuiet <;> simp
theorem readRsp_frame (s : State) : PortFrame s (readRsp s).2 := by apply PortFrame.ofQuiet <;> simp
theorem readImage_frame (s : State) : PortFrame s (readImage s).2 := by apply PortFrame.ofQuiet <;> simp
theorem logCall_frame (c : PortCall) (s : State) : PortFrame s (logCall c s) := by apply PortFrame.ofQuiet <;> simp
theorem writeReg_frame (r : PortReg) (v : PortWord) (s : State) : PortFrame s (writeReg r v s) := by
  apply PortFrame.ofQuiet <;> simp

theorem drawBytes_frame (n : Nat) (s : State) : PortFrame s (drawBytes n s).2 := by
  induction n generalizing s with
  | zero => exact PortFrame.refl s
  | succ n ih =>
    unfold drawBytes
    split
    · exact PortFrame.trans (by apply PortFrame.ofQuiet <;> rfl) (ih _)
    · apply PortFrame.ofQuiet <;> rfl

/-- Drawing bytes uses only the listed bytes and the counter. -/
theorem drawBytes_env (n : Nat) (s : State) : (drawBytes n s).2 =
    { s with env.bytes := (drawBytes n s).2.env.bytes, env.draws := (drawBytes n s).2.env.draws } := by
  induction n generalizing s with
  | zero => rfl
  | succ n ih =>
    unfold drawBytes
    split
    · dsimp only; rw [ih]
    · rfl

theorem drawBytes_length (n : Nat) (s : State) : (drawBytes n s).1.length = n := by
  induction n generalizing s with
  | zero => rfl
  | succ n ih =>
    unfold drawBytes
    split
    · simp [ih]
    · simp [freeBytes]

/-- A bracketed wait leaves the mask empty (R168). -/
theorem maskedWait_frame (cs : List EventClass) (tc : TimeoutClass) (s : State) : PortFrame s (maskedWait cs tc s).2 := by
  constructor <;> simp

theorem readStatus_frame (b : Bool) (s : State) : PortFrame s (readStatus b s).2 := by
  constructor <;> simp [readStatus]

theorem takeR1_frame (s : State) : PortFrame s (takeR1 s) := by
  constructor <;> simp [takeR1]

theorem dataWait_frame (cs : List EventClass) (tc : TimeoutClass) (s : State) : PortFrame s (dataWait cs tc s).2 :=
  (maskedWait_frame cs tc s).trans (readStatus_frame _ _)

theorem respR1_frame (excl : Word) (s : State) : PortFrame s (respR1 excl s).2 := takeR1_frame s

theorem busyWait_frame (n : Nat) (s : State) : PortFrame s (busyWait n s).2 := by
  induction n generalizing s with
  | zero => exact PortFrame.refl s
  | succ n ih =>
    unfold busyWait
    dsimp only
    split
    · exact readSts2_frame s
    · exact (readSts2_frame s).trans (ih _)

theorem sendCommand_frame (cmd : Indices → BitVec 6) (arg : Word) (kind : RespKind) (tc : TimeoutClass) (s : State) :
    PortFrame s (sendCommand cmd arg kind tc s).2 := by
  refine PortFrame.trans ?_ (readStatus_frame _ _)
  constructor <;> simp [portWait, setMask, logCall, writeReg]

/-- `issue` changes nothing but its own bookkeeping; it records no error (R160, R167). -/
theorem issue_frame (cmd : Indices → BitVec 6) (arg : Word) (kind : RespKind) (tc : TimeoutClass) (s : State) :
    PortFrame s (issue cmd arg kind tc s).2 := by
  unfold issue
  dsimp only
  split
  · exact (busyWait_frame _ _).trans (sendCommand_frame ..)
  · exact busyWait_frame _ _

/-- What `andThen` does: it passes an error on, or runs the rest. -/
theorem andThen_cases (r : Option ErrorKind × State) (k : State → Option ErrorKind × State) :
    (∃ e, r.1 = some e ∧ andThen r k = (some e, r.2)) ∨ (r.1 = none ∧ andThen r k = k r.2) := by
  unfold andThen
  cases h : r.1 with
  | some e => exact .inl ⟨e, rfl, rfl⟩
  | none => exact .inr ⟨rfl, rfl⟩

theorem issueR1_frame (cmd : Indices → BitVec 6) (arg : Word) (kind : RespKind) (tc : TimeoutClass) (excl : Word) (s : State) :
    PortFrame s (issueR1 cmd arg kind tc excl s).2 := by
  unfold issueR1
  rcases andThen_cases (issue cmd arg kind tc s) (respR1 excl) with ⟨e, -, h⟩ | ⟨-, h⟩ <;> rw [h]
  · exact issue_frame ..
  · exact (issue_frame ..).trans (respR1_frame ..)

/-! ### The frame of a wire command -/

/-- `t` differs from `s` at most where some wire command may write: the Port's bookkeeping, a card image, the bus width,
the DMA state, the written-block counter, the two memories. -/
structure CommandFrame (s t : State) : Prop where
  cfg : t.cfg = s.cfg
  io : t.io = s.io
  seq : t.seq = { s.seq with wrCount := t.seq.wrCount, copied := t.seq.copied }
  inputs : t.inputs = s.inputs
  finalized : t.finalized = s.finalized
  h : t.h = { s.h with
    irqMask := t.h.irqMask, inFlight := t.h.inFlight, lastR1 := t.h.lastR1, lastSts2 := t.h.lastSts2
    ocr := t.h.ocr, cid := t.h.cid, csd := t.h.csd, dsr := t.h.dsr, rca := t.h.rca, scr := t.h.scr
    sdStatus := t.h.sdStatus, ifCond := t.h.ifCond, busWidth := t.h.busWidth, dmaState := t.h.dmaState }
  mask : s.h.irqMask = [] → t.h.irqMask = []
  inFlight : s.h.inFlight = false → t.h.inFlight = false
  ocr : s.h.ocr.written → t.h.ocr.written
  csd : s.h.csd.written → t.h.csd.written
  rca : s.h.rca.written → t.h.rca.written
  scr : s.h.scr.written → t.h.scr.written
  memWf : s.mem.wf = true → t.mem.wf = true
  cardWf : s.card.wf = true → t.card.wf = true

theorem PortFrame.command {s t : State} (f : PortFrame s t) : CommandFrame s t := by
  have hh := f.h
  constructor
  · exact f.cfg
  · exact f.io
  · rw [f.seq]
  · exact f.inputs
  · exact f.finalized
  · rw [hh]
  · exact f.mask
  · exact f.inFlight
  all_goals first | (rw [hh]; exact id) | (rw [f.mem]; exact id) | (rw [f.card]; exact id)

theorem CommandFrame.trans {s t u : State} (a : CommandFrame s t) (b : CommandFrame t u) : CommandFrame s u where
  cfg := b.cfg.trans a.cfg
  io := b.io.trans a.io
  seq := by rw [b.seq, a.seq]
  inputs := b.inputs.trans a.inputs
  finalized := b.finalized.trans a.finalized
  h := by rw [b.h, a.h]
  mask := fun m => b.mask (a.mask m)
  inFlight := fun m => b.inFlight (a.inFlight m)
  ocr := fun m => b.ocr (a.ocr m)
  csd := fun m => b.csd (a.csd m)
  rca := fun m => b.rca (a.rca m)
  scr := fun m => b.scr (a.scr m)
  memWf := fun m => b.memWf (a.memWf m)
  cardWf := fun m => b.cardWf (a.cardWf m)

theorem andThen_frame {s : State} {r : Option ErrorKind × State} {k : State → Option ErrorKind × State}
    (hr : CommandFrame s r.2) (hk : ∀ t, CommandFrame t (k t).2) : CommandFrame s (andThen r k).2 := by
  rcases andThen_cases r k with ⟨e, -, h⟩ | ⟨-, h⟩ <;> rw [h]
  · exact hr
  · exact hr.trans (hk _)

/-! ### Data phases -/

/-- Bytes written to the buffer, whatever they are. -/
theorem memWrite_frame (a : Nat) (bytes : List Byte) (s : State) :
    CommandFrame s { s with mem := s.mem.writeBytes a bytes } := by
  constructor <;> first | rfl | exact id | exact writeBytes_wf _ _ _

/-- Bytes written to the card, whatever they are. -/
theorem cardWrite_frame (a : Nat) (bytes : List Byte) (s : State) :
    CommandFrame s { s with card := s.card.writeBytes a bytes } := by
  constructor <;> first | rfl | exact id | exact writeBytes_wf _ _ _

theorem cardSector_frame (sector : Nat) (s : State) : PortFrame s (cardSector sector s).2 := by
  unfold cardSector
  split
  · exact PortFrame.refl s
  · exact drawBytes_frame ..

/-- A sector moves between the two memories; nothing else changes but the draws. -/
theorem moveSector_frame (dir : Direction) (sector buf : Nat) (s : State) : CommandFrame s (moveSector dir sector buf s) := by
  cases dir
  · exact (cardSector_frame ..).command.trans (memWrite_frame ..)
  · unfold moveSector
    dsimp only
    split
    · exact cardWrite_frame ..
    · exact (PortFrame.refl s).command

theorem spoilBuffer_frame (a n : Nat) (s : State) : CommandFrame s (spoilBuffer a n s) :=
  (drawBytes_frame n s).command.trans (memWrite_frame ..)

theorem spoilSector_frame (sector : Nat) (s : State) : CommandFrame s (spoilSector sector s) := by
  unfold spoilSector
  split
  · exact (drawBytes_frame 512 s).command.trans (cardWrite_frame ..)
  · exact (PortFrame.refl s).command

theorem copied_frame (n : Nat) (s : State) : CommandFrame s { s with seq.copied := n } := by
  constructor <;> first | rfl | exact id

theorem forgetCopies_frame (s : State) : CommandFrame s (forgetCopies s) := copied_frame 0 s
theorem countCopy_frame (s : State) : CommandFrame s (countCopy s) := copied_frame _ s

theorem softwareSectors_frame (dir : Direction) (sector buf n : Nat) (s : State) :
    CommandFrame s (softwareSectors dir sector buf n s).2 := by
  induction n generalizing sector buf s with
  | zero => exact (PortFrame.refl s).command
  | succ n ih =>
    unfold softwareSectors
    exact andThen_frame (dataWait_frame ..).command fun t =>
      (((logCall_frame _ _).command.trans (moveSector_frame ..)).trans (countCopy_frame _)).trans (ih ..)

theorem dmaSectors_frame (dir : Direction) (sector buf n : Nat) (s : State) :
    CommandFrame s (dmaSectors dir sector buf n s) := by
  induction n generalizing sector buf s with
  | zero => exact (PortFrame.refl s).command
  | succ n ih =>
    unfold dmaSectors
    exact (moveSector_frame ..).trans (ih ..)

theorem setDma_frame (d : DmaState) (s : State) : CommandFrame s (setDma d s) := by
  constructor <;> first | rfl | exact id

theorem drainDma_frame (dir : Direction) (sector buf n : Nat) (s : State) :
    CommandFrame s (drainDma dir sector buf n s).2 := by
  have wait : CommandFrame s (eventArrives [.dmaEnd] (logCall .dmaWaitEnd s)).2 :=
    PortFrame.command (by apply PortFrame.ofQuiet <;> simp [logCall])
  unfold drainDma
  dsimp only
  split
  · exact (wait.trans (dmaSectors_frame ..)).trans (setDma_frame ..)
  · exact wait.trans (setDma_frame ..)

theorem dmaPhase_frame (dir : Direction) (sector buf n : Nat) (s : State) :
    CommandFrame s (dmaPhase dir sector buf n s).2 := by
  have armed : CommandFrame s (endSeq (setDma .armed (logCall (.dmaInit buf dir) s))).2 :=
    ((logCall_frame _ _).command.trans (setDma_frame ..)).trans (dataWait_frame ..).command
  unfold dmaPhase
  dsimp only
  split
  · exact armed.trans (setDma_frame ..)
  · exact armed.trans (drainDma_frame ..)

theorem dataPhase_frame (dir : Direction) (sector buf n : Nat) (s : State) :
    CommandFrame s (dataPhase dir sector buf n s).2 := by
  unfold dataPhase
  split
  · exact andThen_frame (softwareSectors_frame ..) fun t =>
      (forgetCopies_frame t).trans (dataWait_frame ..).command
  · exact dmaPhase_frame ..

theorem readRegData_frame (n : Nat) (store : List Byte → State → State)
    (hstore : ∀ bs t, CommandFrame t (store bs t)) (s : State) : CommandFrame s (readRegData n store s).2 := by
  unfold readRegData
  exact andThen_frame (dataWait_frame ..).command fun t =>
    (((logCall_frame _ _).command.trans (drawBytes_frame ..).command).trans (hstore ..)).trans
      (dataWait_frame ..).command

/-! ### Inversion of the wire commands -/

/-- A wire command that answers at all was not entered in flight, and ends by keeping its result. -/
theorem command_next {a : Bool} {body : State → Option ErrorKind × State} {s t : State}
    (h : command a body s = .next t) : s.h.inFlight = false ∧ t = endCommand a (body s) := by
  unfold command at h
  split at h
  · cases h
  · injection h with h
    exact ⟨by simpa using ‹¬s.h.inFlight = true›, h.symm⟩

theorem command_idle {a : Bool} {body : State → Option ErrorKind × State} {s : State} (h : s.h.inFlight = false) :
    command a body s = .next (endCommand a (body s)) := by
  simp [command, h]

/-- What a data command is, given what its issue and its R1 check answer (R305, R310). -/
theorem dataCommand_of_issue {cmd : Indices → BitVec 6} {dir : Direction} {n : Nat} {arg : Word} {s : State}
    {r : Option ErrorKind × State} (h : issueR1 cmd arg .r1 .cmd 0#32 (forgetCopies s) = r) (hi : s.h.inFlight = false)
    (hb : dmaBlocked s = false ∨ r.1.isSome) :
    dataCommand cmd dir n arg s = .next (endCommand false (andThen r
      (dataPhase dir (addressedSector s.h.highCapacity (s.seq.burst.first + s.seq.burst.k) arg)
        (s.seq.burst.buf + 512 * s.seq.burst.k) n))) := by
  subst h
  unfold dataCommand
  rcases hb with hb | hb
  · simp [hi, hb]
  · simp [hi, Option.isNone_eq_false_iff.2 hb]

/-- A data command that answers at all. -/
theorem dataCommand_next {cmd : Indices → BitVec 6} {dir : Direction} {n : Nat} {arg : Word} {s t : State}
    (h : dataCommand cmd dir n arg s = .next t) :
    s.h.inFlight = false ∧ (dmaBlocked s = false ∨ (issueR1 cmd arg .r1 .cmd 0#32 (forgetCopies s)).1.isSome) ∧
    t = endCommand false (andThen (issueR1 cmd arg .r1 .cmd 0#32 (forgetCopies s))
      (dataPhase dir (addressedSector s.h.highCapacity (s.seq.burst.first + s.seq.burst.k) arg)
        (s.seq.burst.buf + 512 * s.seq.burst.k) n)) := by
  unfold dataCommand at h
  dsimp only at h
  split at h
  · cases h
  · split at h
    · cases h
    · injection h with h
      refine ⟨by simpa using ‹¬s.h.inFlight = true›, ?_, h.symm⟩
      rename_i hb
      cases hd : dmaBlocked s
      · exact .inl rfl
      · right
        simp only [hd, Bool.true_and] at hb
        cases hr : (issueR1 cmd arg .r1 .cmd 0#32 (forgetCopies s)).1 with
        | none => simp [hr] at hb
        | some e => simp

end Sys2Proof.Laws
end

