-- ==== Sys2Proof/Laws/Callbacks.lean ====
section
/-! SUPPORT. What lands inside a request commutes with what a wire command does (R439, R451): nothing in the Command
Engine or the data phases reads what a callback or a stop writes. One lemma per shared operation. -/

namespace Sys2Proof.Laws

open Sys2Proof.Machine

/-- The writes of what can land: the two card-detect callbacks of this channel (R391, R392) and REQUEST_STOP (R355). -/
inductive Mark where
  | insert
  | remove
  | stop (words : RequestWords)

def mark (b : Mark) (s : State) : State :=
  match b with
  | .insert => { s with h.cardPresent := true }
  | .remove => { s with h.cardPresent := false, h.compulsoryStop := true, env.cardLost := true, seq.doubtful := true }
  | .stop w => { s with
      h.compulsoryStop := true
      io.req := w.req, io.arg0 := w.arg0, io.arg1 := w.arg1, io.arg2 := w.arg2, io.arg3 := w.arg3, io.arg4 := w.arg4 }

/-- What lands is nothing or a mark, and the same one in every state of the same configuration. -/
theorem midway_cases (m : Midway) (cfg : Config) :
    (∀ s : State, s.cfg = cfg → midway m s = s) ∨ ∃ b, ∀ s : State, s.cfg = cfg → midway m s = mark b s := by
  cases m with
  | stop a0 a1 a2 a3 a4 => exact .inr ⟨.stop ⟨9#32, a0, a1, a2, a3, a4⟩, fun _ _ => rfl⟩
  | callback ev channel =>
    by_cases seen : cfg.cardDetectSupported = true ∧ channel = cfg.channel ∧ channel < cfg.nChannels
    · cases ev
      case cardInsert => exact .inr ⟨.insert, fun s hs => by subst hs; exact if_pos seen⟩
      case cardRemove => exact .inr ⟨.remove, fun s hs => by subst hs; exact if_pos seen⟩
      all_goals exact .inl fun s _ => by simp [midway, callback]
    · exact .inl fun s hs => by subst hs; exact if_neg seen

theorem mark_cfg (b : Mark) (s : State) : (mark b s).cfg = s.cfg := by cases b <;> rfl
theorem mark_burst (b : Mark) (s : State) : (mark b s).seq.burst = s.seq.burst := by cases b <;> rfl

/-- An operation with an answer neither sees nor disturbs what lands. -/
structure Blind {α : Type} (op : State → α × State) : Prop where
  eq : ∀ b s, op (mark b s) = ((op s).1, mark b (op s).2)

/-- The same of an operation without one. -/
structure Blind' (op : State → State) : Prop where
  eq : ∀ b s, op (mark b s) = mark b (op s)

theorem readSts2_blind : Blind readSts2 := ⟨fun b s => by cases b <;> (unfold readSts2 mark; dsimp only; split <;> rfl)⟩
theorem readRsp_blind : Blind readRsp := ⟨fun b s => by cases b <;> (unfold readRsp mark; dsimp only; split <;> rfl)⟩
theorem readImage_blind : Blind readImage := ⟨fun b s => by
  unfold readImage
  dsimp only
  rw [readRsp_blind.eq, readRsp_blind.eq]⟩
theorem eventArrives_blind (cs : List EventClass) : Blind (eventArrives cs) :=
  ⟨fun b s => by cases b <;> (unfold eventArrives mark; dsimp only; split <;> rfl)⟩
theorem logCall_blind (c : PortCall) : Blind' (logCall c) := ⟨fun b s => by cases b <;> rfl⟩
theorem writeReg_blind (r : PortReg) (v : PortWord) : Blind' (writeReg r v) := ⟨fun b s => by cases b <;> rfl⟩
theorem setMask_blind (cs : List EventClass) : Blind' (setMask cs) := ⟨fun b s => by cases b <;> rfl⟩
theorem setDma_blind (d : DmaState) : Blind' (setDma d) := ⟨fun b s => by cases b <;> rfl⟩
theorem forgetCopies_blind : Blind' forgetCopies := ⟨fun b s => by cases b <;> rfl⟩
theorem countCopy_blind : Blind' countCopy := ⟨fun b s => by cases b <;> rfl⟩
theorem inFlight_blind (x : Bool) : Blind' fun s => { s with h.inFlight := x } := ⟨fun b s => by cases b <;> rfl⟩

theorem drawBytes_blind (n : Nat) : Blind (drawBytes n) := by
  refine ⟨fun b s => ?_⟩
  induction n generalizing s with
  | zero => rfl
  | succ n ih =>
    have bytes : (mark b s).env.bytes = s.env.bytes := by cases b <;> rfl
    unfold drawBytes
    rw [bytes]
    split
    · rename_i x rest _
      have used : ({ mark b s with env.bytes := rest } : State) = mark b { s with env.bytes := rest } := by
        cases b <;> rfl
      rw [used, ih]
    · cases b <;> rfl

theorem portWait_blind (tc : TimeoutClass) : Blind (portWait tc) := by
  refine ⟨fun b s => ?_⟩
  have mask : (mark b s).h.irqMask = s.h.irqMask := by cases b <;> rfl
  unfold portWait
  rw [mask, mark_cfg, (logCall_blind _).eq, (eventArrives_blind _).eq]

theorem maskedWait_blind (cs : List EventClass) (tc : TimeoutClass) : Blind (maskedWait cs tc) := by
  refine ⟨fun b s => ?_⟩
  unfold maskedWait
  dsimp only
  rw [(setMask_blind _).eq, (portWait_blind _).eq, (setMask_blind _).eq]

theorem readStatus_blind (arrived : Bool) : Blind (readStatus arrived) := by
  refine ⟨fun b s => ?_⟩
  unfold readStatus
  dsimp only
  rw [readSts2_blind.eq]
  cases b <;> rfl

theorem dataWait_blind (cs : List EventClass) (tc : TimeoutClass) : Blind (dataWait cs tc) := by
  refine ⟨fun b s => ?_⟩
  unfold dataWait
  dsimp only
  rw [(maskedWait_blind ..).eq]
  exact (readStatus_blind _).eq ..

theorem busyWait_blind (n : Nat) : Blind (busyWait n) := by
  refine ⟨fun b s => ?_⟩
  induction n generalizing s with
  | zero => rfl
  | succ n ih =>
    unfold busyWait
    dsimp only
    rw [mark_cfg, readSts2_blind.eq]
    dsimp only
    split
    · rfl
    · exact ih _

theorem sendCommand_blind (cmd : Indices → BitVec 6) (arg : Word) (kind : RespKind) (tc : TimeoutClass) :
    Blind (sendCommand cmd arg kind tc) := by
  refine ⟨fun b s => ?_⟩
  unfold sendCommand
  dsimp only
  rw [(writeReg_blind ..).eq, (writeReg_blind ..).eq, (writeReg_blind ..).eq, mark_cfg, (setMask_blind _).eq,
    (logCall_blind _).eq, (inFlight_blind true).eq, (portWait_blind _).eq, (setMask_blind _).eq]
  dsimp only
  rw [(inFlight_blind false).eq]
  exact (readStatus_blind _).eq ..

theorem issue_blind (cmd : Indices → BitVec 6) (arg : Word) (kind : RespKind) (tc : TimeoutClass) :
    Blind (issue cmd arg kind tc) := by
  refine ⟨fun b s => ?_⟩
  unfold issue
  dsimp only
  rw [mark_cfg, (busyWait_blind _).eq]
  dsimp only
  split
  · exact (sendCommand_blind ..).eq ..
  · rfl

/-- Two blind parts run one after the other. -/
theorem Blind.andThen {r k : State → Option ErrorKind × State} (hr : Blind r) (hk : Blind k) :
    Blind fun s => Machine.andThen (r s) k := by
  refine ⟨fun b s => ?_⟩
  rw [hr.eq]
  unfold Machine.andThen
  dsimp only
  split
  · rfl
  · exact hk.eq ..

theorem takeR1_blind : Blind' takeR1 := ⟨fun b s => by unfold takeR1; rw [readRsp_blind.eq]; cases b <;> rfl⟩

theorem respR1_blind (excl : Word) : Blind (respR1 excl) := by
  refine ⟨fun b s => ?_⟩
  unfold respR1
  rw [takeR1_blind.eq]
  cases b <;> rfl

theorem issueR1_blind (cmd : Indices → BitVec 6) (arg : Word) (kind : RespKind) (tc : TimeoutClass) (excl : Word) :
    Blind (issueR1 cmd arg kind tc excl) := (issue_blind ..).andThen (respR1_blind _)

theorem readRegData_blind (n : Nat) (store : List Byte → State → State) (h : ∀ bs, Blind' (store bs)) :
    Blind (readRegData n store) := by
  refine (dataWait_blind ..).andThen ⟨fun b s => ?_⟩
  dsimp only
  rw [(logCall_blind _).eq, (drawBytes_blind _).eq]
  dsimp only
  rw [(h _).eq]
  exact (dataWait_blind ..).eq ..

theorem cardSector_blind (sector : Nat) : Blind (cardSector sector) := by
  refine ⟨fun b s => ?_⟩
  have size : (mark b s).h.cardSectorSize = s.h.cardSectorSize := by cases b <;> rfl
  have data : (mark b s).card = s.card := by cases b <;> rfl
  unfold cardSector
  rw [size, data]
  by_cases inside : sector < s.h.cardSectorSize <;> simp only [inside, if_true, if_false]
  exact (drawBytes_blind 512).eq b s

theorem moveSector_blind (dir : Direction) (sector buf : Nat) : Blind' (moveSector dir sector buf) := by
  refine ⟨fun b s => ?_⟩
  cases dir
  · unfold moveSector
    dsimp only
    rw [(cardSector_blind _).eq]
    cases b <;> rfl
  · have size : (mark b s).h.cardSectorSize = s.h.cardSectorSize := by cases b <;> rfl
    unfold moveSector
    dsimp only
    rw [size]
    split <;> cases b <;> rfl

theorem softwareSectors_blind (dir : Direction) (sector buf n : Nat) : Blind (softwareSectors dir sector buf n) := by
  induction n generalizing sector buf with
  | zero => exact ⟨fun b s => rfl⟩
  | succ n ih =>
    refine (dataWait_blind [sectorEvent dir, .dataError] .data).andThen ⟨fun b s => ?_⟩
    rw [(logCall_blind _).eq, (moveSector_blind ..).eq, countCopy_blind.eq, (ih ..).eq]

theorem dmaSectors_blind (dir : Direction) (sector buf n : Nat) : Blind' (dmaSectors dir sector buf n) := by
  induction n generalizing sector buf with
  | zero => exact ⟨fun b s => rfl⟩
  | succ n ih =>
    refine ⟨fun b s => ?_⟩
    unfold dmaSectors
    rw [(moveSector_blind ..).eq, (ih ..).eq]

theorem drainDma_blind (dir : Direction) (sector buf n : Nat) : Blind (drainDma dir sector buf n) := by
  refine ⟨fun b s => ?_⟩
  unfold drainDma
  dsimp only
  rw [(logCall_blind _).eq, (eventArrives_blind _).eq]
  dsimp only
  split
  · rw [(dmaSectors_blind ..).eq, (setDma_blind _).eq]
  · cases b <;> rfl

theorem dataPhase_blind (dir : Direction) (sector buf n : Nat) : Blind (dataPhase dir sector buf n) := by
  refine ⟨fun b s => ?_⟩
  have mode : (mark b s).h.xferMode = s.h.xferMode := by cases b <;> rfl
  unfold dataPhase
  rw [mode]
  split
  · refine ((softwareSectors_blind dir sector buf n).andThen ⟨fun b t => ?_⟩).eq b s
    rw [forgetCopies_blind.eq]
    exact (dataWait_blind ..).eq ..
  · unfold dmaPhase endSeq
    dsimp only
    rw [(logCall_blind _).eq, (setDma_blind _).eq, (dataWait_blind ..).eq]
    dsimp only
    split
    · cases b <;> rfl
    · exact (drainDma_blind ..).eq ..

/-- An outcome with its next state after a mark. -/
def markAfter (b : Mark) (r : Result) : Result :=
  match r with
  | .next t => .next (mark b t)
  | .fault f => .fault f
  | .refused q => .refused q

/-- A wire command after a mark is the mark after the command. -/
theorem command_mark {a : Bool} {body : State → Option ErrorKind × State} (h : Blind body) (b : Mark) (s : State) :
    command a body (mark b s) = markAfter b (command a body s) := by
  have flying : (mark b s).h.inFlight = s.h.inFlight := by cases b <;> rfl
  unfold command
  rw [flying, h.eq]
  split
  · rfl
  · cases b <;> rfl

theorem dataCommand_mark (cmd : Indices → BitVec 6) (dir : Direction) (n : Nat) (arg : Word) (b : Mark) (s : State) :
    dataCommand cmd dir n arg (mark b s) = markAfter b (dataCommand cmd dir n arg s) := by
  have flying : (mark b s).h.inFlight = s.h.inFlight := by cases b <;> rfl
  have blocked : dmaBlocked (mark b s) = dmaBlocked s := by cases b <;> rfl
  have class_ : (mark b s).h.highCapacity = s.h.highCapacity := by cases b <;> rfl
  have body := ((issueR1_blind cmd arg .r1 .cmd 0#32).andThen (dataPhase_blind dir
    (addressedSector s.h.highCapacity (s.seq.burst.first + s.seq.burst.k) arg) (s.seq.burst.buf + 512 * s.seq.burst.k)
    n)).eq b (forgetCopies s)
  unfold dataCommand
  dsimp only
  rw [flying, blocked, mark_burst, class_, forgetCopies_blind.eq, body, (issueR1_blind ..).eq]
  dsimp only
  split
  · rfl
  · split
    · rfl
    · cases b <;> rfl

end Sys2Proof.Laws
end

