-- ==== Sys2Proof/Laws/Data.lean ====
section
/-! SUPPORT. What the waits and the data phases do when the Port's answers are listed, and which bytes a data phase moves:
one lemma per shared operation. -/

namespace Sys2Proof.Laws

open Sys2Proof.Machine

/-! ### Listed answers -/

/-- A data-phase wait whose event and status are listed: its result is their classification (R165, R309). -/
theorem dataWait_listed {cs : List EventClass} {tc : TimeoutClass} {s : State} {arrived : Bool}
    {events : List (Option EventClass)} {v : Sts2} {later : List Sts2}
    (he : awaitEvent cs s.env.events = some (arrived, events)) (hv : s.env.sts2 = v :: later) :
    ∃ log, dataWait cs tc s = (classify s.cfg.pos.sts2 v arrived, { s with
      env.events := events, env.sts2 := later, h.irqMask := [], h.lastSts2 := v, log := log }) := by
  refine ⟨(dataWait cs tc s).2.log, ?_⟩
  simp [dataWait, maskedWait, portWait, setMask, logCall, eventArrives, he, readStatus, readSts2, hv]

/-- Register data whose bytes are listed (R181). -/
theorem drawBytes_listed {bytes rest : List Byte} {s : State} (h : s.env.bytes = bytes ++ rest) :
    drawBytes bytes.length s = (bytes, { s with env.bytes := rest }) := by
  induction bytes generalizing s with
  | nil =>
    simp only [List.nil_append] at h
    subst h
    rfl
  | cons b bs ih =>
    simp only [List.cons_append] at h
    simp only [List.length_cons, drawBytes, h]
    rw [ih rfl]

/-- Two parts run one after the other answer Ok only if both do. -/
theorem andThen_ok {r : Option ErrorKind × State} {k : State → Option ErrorKind × State} (h : (andThen r k).1 = none) :
    r.1 = none ∧ andThen r k = k r.2 ∧ (k r.2).1 = none := by
  rcases andThen_cases r k with ⟨e, -, hk⟩ | ⟨hr, hk⟩ <;> rw [hk] at h ⊢
  · cases h
  · exact ⟨hr, rfl, h⟩

/-! ### The bytes a data phase moves -/

/-- `t` is `s` after `n` sectors from `sector` on have moved between the card and the buffer at `buf`: the moved bytes,
the bytes outside them, and the parts of the state that stay. -/
structure Moved (dir : Direction) (s t : State) (sector buf n : Nat) : Prop where
  cfg : t.cfg = s.cfg
  io : t.io = s.io
  seq : t.seq = { s.seq with copied := t.seq.copied }
  inputs : t.inputs = s.inputs
  finalized : t.finalized = s.finalized
  h : t.h = { s.h with irqMask := t.h.irqMask, lastSts2 := t.h.lastSts2 }
  cardKept : dir = .read → t.card = s.card
  memKept : dir = .write → t.mem = s.mem
  readInside : dir = .read → ∀ k, k < n → sector + k < s.h.cardSectorSize → ∀ j, j < 512 →
    t.mem.read (buf + 512 * k + j) = s.card.read ((sector + k) * 512 + j)
  readOutside : dir = .read → ∀ a, a < buf ∨ buf + 512 * n ≤ a → t.mem.read a = s.mem.read a
  writeInside : dir = .write → ∀ k, k < n → sector + k < s.h.cardSectorSize → ∀ j, j < 512 →
    t.card.read ((sector + k) * 512 + j) = s.mem.read (buf + 512 * k + j)
  writeOutside : dir = .write → ∀ a, a < sector * 512 ∨ (sector + n) * 512 ≤ a → t.card.read a = s.card.read a

theorem Moved.none (dir : Direction) (s : State) (sector buf : Nat) : Moved dir s s sector buf 0 :=
  ⟨rfl, rfl, rfl, rfl, rfl, rfl, fun _ => rfl, fun _ => rfl, fun _ k hk => absurd hk (Nat.not_lt_zero k),
    fun _ _ _ => rfl, fun _ k hk => absurd hk (Nat.not_lt_zero k), fun _ _ _ => rfl⟩

/-- Outside `n + 1` blocks is outside the first and outside the rest. -/
theorem outside_blocks {x a n c : Nat} (h : x < a ∨ a + c * (n + 1) ≤ x) :
    (x < a ∨ a + c * 1 ≤ x) ∧ (x < a + c ∨ a + c + c * n ≤ x) := by
  rw [Nat.mul_succ] at h
  rw [Nat.mul_one]
  generalize c * n = m at h ⊢
  omega

theorem outside_sectors {x sector n c : Nat} (h : x < sector * c ∨ (sector + (n + 1)) * c ≤ x) :
    (x < sector * c ∨ (sector + 1) * c ≤ x) ∧ (x < (sector + 1) * c ∨ (sector + 1 + n) * c ≤ x) := by
  rw [show sector + (n + 1) = sector + 1 + n by omega] at h
  have grows : (sector + 1) * c ≤ (sector + 1 + n) * c := Nat.mul_le_mul_right c (by omega)
  have step : sector * c ≤ (sector + 1) * c := Nat.mul_le_mul_right c (by omega)
  omega

theorem before_block {a k j c : Nat} (h : j < c) : a + c * 0 + j < a + c ∨ a + c + c * k ≤ a + c * 0 + j := by
  left
  simp only [Nat.mul_zero, Nat.add_zero]
  omega

theorem before_sector {sector n j c : Nat} (h : j < c) :
    (sector + 0) * c + j < (sector + 1) * c ∨ (sector + 1 + n) * c ≤ (sector + 0) * c + j := by
  left
  rw [Nat.add_zero, Nat.add_mul, Nat.one_mul]
  omega

theorem cardSector_env (sector : Nat) (s : State) : (cardSector sector s).2 =
    { s with env.bytes := (cardSector sector s).2.env.bytes, env.draws := (cardSector sector s).2.env.draws } := by
  unfold cardSector
  split
  · rfl
  · exact drawBytes_env ..

theorem cardSector_length (sector : Nat) (s : State) : (cardSector sector s).1.length = 512 := by
  by_cases inside : sector < s.h.cardSectorSize
  · simp only [cardSector, inside, if_true, readBytes_length]
  · simp only [cardSector, inside, if_false, drawBytes_length]

theorem cardSector_inside {sector : Nat} {s : State} (h : sector < s.h.cardSectorSize) :
    (cardSector sector s).1 = s.card.readBytes (sector * 512) 512 := by simp [cardSector, h]

theorem moveSector_env (dir : Direction) (sector buf : Nat) (s : State) : (moveSector dir sector buf s).env =
    { s.env with
      bytes := (moveSector dir sector buf s).env.bytes, draws := (moveSector dir sector buf s).env.draws } := by
  cases dir
  · unfold moveSector; dsimp only; rw [cardSector_env]
  · unfold moveSector; dsimp only; split <;> rfl

/-- One sector (R96, R98, R99). -/
theorem moveSector_moved (dir : Direction) (sector buf : Nat) (s : State) :
    Moved dir s (moveSector dir sector buf s) sector buf 1 := by
  have first {k : Nat} (hk : k < 1) : k = 0 := Nat.lt_one_iff.1 hk
  cases dir
  · have e := cardSector_env sector s
    unfold moveSector
    dsimp only
    rw [e]
    refine ⟨rfl, rfl, rfl, rfl, rfl, rfl, fun _ => rfl, by simp, fun _ k hk hs j hj => ?_, fun _ a ha => ?_, by simp,
      by simp⟩
    · obtain rfl := first hk
      simp only [Nat.mul_zero, Nat.add_zero] at hs ⊢
      rw [writeBytes_read_inside _ _ _ _ (by rw [cardSector_length]; exact hj)]
      simp only [cardSector_inside hs, readBytes_getElem]
    · exact writeBytes_read_outside _ _ _ _ (by simpa only [cardSector_length, Nat.mul_one] using ha)
  · unfold moveSector
    dsimp only
    split
    · refine ⟨rfl, rfl, rfl, rfl, rfl, rfl, by simp, fun _ => rfl, by simp, by simp, fun _ k hk _ j hj => ?_,
        fun _ a ha => ?_⟩
      · obtain rfl := first hk
        simp only [Nat.mul_zero, Nat.add_zero]
        rw [writeBytes_read_inside _ _ _ _ (by simp only [readBytes_length]; exact hj), readBytes_getElem]
      · refine writeBytes_read_outside _ _ _ _ ?_
        rwa [readBytes_length, ← Nat.succ_mul]
    · rename_i absent
      refine ⟨rfl, rfl, rfl, rfl, rfl, rfl, by simp, fun _ => rfl, by simp, by simp, fun _ k hk hs => ?_,
        fun _ a _ => rfl⟩
      obtain rfl := first hk
      exact absurd hs absent

/-- A sector, then the sectors after it. -/
theorem Moved.cons {dir : Direction} {s t u : State} {sector buf n : Nat} (a : Moved dir s t sector buf 1)
    (b : Moved dir t u (sector + 1) (buf + 512) n) : Moved dir s u sector buf (n + 1) := by
  have size : t.h.cardSectorSize = s.h.cardSectorSize := by rw [a.h]
  have shift (k : Nat) : sector + 1 + k = sector + (k + 1) := by omega
  have slide (k : Nat) : buf + 512 + 512 * k = buf + 512 * (k + 1) := by rw [Nat.mul_succ, Nat.add_assoc, Nat.add_comm 512]
  refine ⟨b.cfg.trans a.cfg, b.io.trans a.io, by rw [b.seq, a.seq], b.inputs.trans a.inputs, b.finalized.trans a.finalized,
    by rw [b.h, a.h], fun d => (b.cardKept d).trans (a.cardKept d),
    fun d => (b.memKept d).trans (a.memKept d), fun d k hk hs j hj => ?_,
    fun d x hx => (b.readOutside d x (outside_blocks hx).2).trans (a.readOutside d x (outside_blocks hx).1),
    fun d k hk hs j hj => ?_,
    fun d x hx => (b.writeOutside d x (outside_sectors hx).2).trans (a.writeOutside d x (outside_sectors hx).1)⟩
  · cases k with
    | zero => rw [b.readOutside d _ (before_block hj)]; exact a.readInside d 0 Nat.one_pos hs j hj
    | succ k =>
      have moved := b.readInside d k (Nat.lt_of_succ_lt_succ hk) (by rw [size, shift]; exact hs) j hj
      rwa [a.cardKept d, shift, slide] at moved
  · cases k with
    | zero => rw [b.writeOutside d _ (before_sector hj)]; exact a.writeInside d 0 Nat.one_pos hs j hj
    | succ k =>
      have moved := b.writeInside d k (Nat.lt_of_succ_lt_succ hk) (by rw [size, shift]; exact hs) j hj
      rwa [a.memKept d, shift, slide] at moved

/-- `t` differs from `s` at most in the Port's answers, the log, the mask and the last STS2. -/
structure Waited (s t : State) : Prop where
  cfg : t.cfg = s.cfg
  io : t.io = s.io
  seq : t.seq = s.seq
  inputs : t.inputs = s.inputs
  finalized : t.finalized = s.finalized
  h : t.h = { s.h with irqMask := t.h.irqMask, lastSts2 := t.h.lastSts2 }
  mem : t.mem = s.mem
  card : t.card = s.card

theorem Moved.after {dir : Direction} {s t u : State} {sector buf n : Nat} (a : Waited s t)
    (b : Moved dir t u sector buf n) : Moved dir s u sector buf n := by
  have size : t.h.cardSectorSize = s.h.cardSectorSize := by rw [a.h]
  refine ⟨b.cfg.trans a.cfg, b.io.trans a.io, by rw [b.seq, a.seq], b.inputs.trans a.inputs, b.finalized.trans a.finalized,
    by rw [b.h, a.h], fun d => (b.cardKept d).trans a.card, fun d => (b.memKept d).trans a.mem,
    ?_, ?_, ?_, ?_⟩
  · rw [← size, ← a.card]; exact b.readInside
  · rw [← a.mem]; exact b.readOutside
  · rw [← size, ← a.mem]; exact b.writeInside
  · rw [← a.card]; exact b.writeOutside

theorem Moved.before {dir : Direction} {s t u : State} {sector buf n : Nat} (b : Moved dir s t sector buf n)
    (a : Waited t u) : Moved dir s u sector buf n := by
  refine ⟨a.cfg.trans b.cfg, a.io.trans b.io, by rw [a.seq, b.seq], a.inputs.trans b.inputs, a.finalized.trans b.finalized,
    by rw [a.h, b.h], fun d => a.card.trans (b.cardKept d), fun d => a.mem.trans (b.memKept d),
    ?_, ?_, ?_, ?_⟩
  · rw [a.mem]; exact b.readInside
  · rw [a.mem]; exact b.readOutside
  · rw [a.card]; exact b.writeInside
  · rw [a.card]; exact b.writeOutside

/-- Counting a copy moves no byte. -/
theorem Moved.counted {dir : Direction} {s t : State} {sector buf n : Nat} (b : Moved dir s t sector buf n) :
    Moved dir s (countCopy t) sector buf n := by
  refine ⟨b.cfg, b.io, ?_, b.inputs, b.finalized, b.h, b.cardKept, b.memKept, b.readInside, b.readOutside,
    b.writeInside, b.writeOutside⟩
  simp only [countCopy]
  rw [b.seq]

theorem moveSector_seq (dir : Direction) (sector buf : Nat) (s : State) : (moveSector dir sector buf s).seq = s.seq := by
  cases dir
  · unfold moveSector; dsimp only; rw [cardSector_env]
  · unfold moveSector; dsimp only; split <;> rfl

/-- The software path with an event and a clean status listed for each sector (R307). -/
theorem softwareSectors_listed {dir : Direction} {n sector buf : Nat} {s : State} {perSector later : List Sts2}
    {events : List (Option EventClass)} (hv : s.env.sts2 = perSector ++ later) (hn : perSector.length = n)
    (clean : ∀ v ∈ perSector, sts2Error s.cfg.pos.sts2 v = none)
    (he : s.env.events = List.replicate n (some (sectorEvent dir)) ++ events) :
    ∃ t, softwareSectors dir sector buf n s = (none, t) ∧ Moved dir s t sector buf n ∧ t.env.sts2 = later ∧
      t.env.events = events ∧ t.seq.copied = s.seq.copied + n := by
  induction n generalizing sector buf s perSector with
  | zero =>
    obtain rfl := List.length_eq_zero_iff.1 hn
    exact ⟨s, rfl, Moved.none .., hv, he, rfl⟩
  | succ n ih =>
    obtain ⟨v, rest, rfl⟩ : ∃ v rest, perSector = v :: rest := by
      cases perSector with
      | nil => cases hn
      | cons v rest => exact ⟨v, rest, rfl⟩
    have hw : awaitEvent [sectorEvent dir, .dataError] s.env.events =
        some (true, List.replicate n (some (sectorEvent dir)) ++ events) := by
      rw [he]; simp [List.replicate_succ, awaitEvent]
    obtain ⟨log, e⟩ := dataWait_listed (tc := .data) hw hv
    have hc := clean v (List.mem_cons_self ..)
    simp only [softwareSectors]
    rw [e]
    simp only [andThen, classify, hc, if_true]
    generalize hu : logCall (.dataPort dir) _ = u
    have waited : Waited s u := by subst hu; exact ⟨rfl, rfl, rfl, rfl, rfl, rfl, rfl, rfl⟩
    have one := (moveSector_moved dir sector buf u).counted
    obtain ⟨t, ht, moved, h1, h2, h3⟩ := ih (sector := sector + 1) (buf := buf + 512)
      (s := countCopy (moveSector dir sector buf u)) (perSector := rest)
      (by simp only [countCopy]; rw [moveSector_env]; subst hu; rfl) (by simpa using hn)
      (fun x hx => by rw [one.cfg, waited.cfg]; exact clean x (List.mem_cons_of_mem _ hx))
      (by simp only [countCopy]; rw [moveSector_env]; subst hu; rfl)
    refine ⟨t, ht, (one.after waited).cons moved, h1, h2, h3.trans ?_⟩
    simp only [countCopy, moveSector_seq, waited.seq]
    omega

/-- The DMA engine moves the sectors (R113). -/
theorem dmaSectors_moved (dir : Direction) (n sector buf : Nat) (s : State) :
    Moved dir s (dmaSectors dir sector buf n s) sector buf n := by
  induction n generalizing sector buf s with
  | zero => exact Moved.none ..
  | succ n ih => exact (moveSector_moved dir sector buf s).cons (ih ..)

theorem dmaSectors_seq (dir : Direction) (sector buf n : Nat) (s : State) :
    (dmaSectors dir sector buf n s).seq = s.seq := by
  induction n generalizing sector buf s with
  | zero => rfl
  | succ n ih => exact (ih ..).trans (moveSector_seq ..)

/-- A data phase moves bytes and changes no other handle field (R307, R308). -/
theorem dmaSectors_h (dir : Direction) (sector buf n : Nat) (s : State) : (dmaSectors dir sector buf n s).h = s.h := by
  induction n generalizing sector buf s with
  | zero => rfl
  | succ n ih =>
    simp only [dmaSectors]
    rw [ih]
    cases dir
    · unfold moveSector; dsimp only; rw [cardSector_env]
    · unfold moveSector; dsimp only; split <;> rfl

end Sys2Proof.Laws
end

