-- ==== Sys2Proof/Laws/Decode.lean ====
section
/-! SUPPORT. The laws of the decoder: a frame that the encoder spells is read by its index and its argument. -/

namespace Sys2Proof.Laws

/-- The start and direction bits of a spelled head. -/
theorem frameHead_kind (index : BitVec 6) : (frameHead index).extractLsb' 6 2 = 1#2 := by
  unfold frameHead
  exact BitVec.extractLsb'_append_eq_left

/-- The index bits of a spelled head. -/
theorem frameHead_index (index : BitVec 6) : (frameHead index).extractLsb' 0 6 = index := by
  unfold frameHead
  exact BitVec.extractLsb'_append_eq_right

/-- A spelled frame is read by its index (R130–R132). -/
theorem decodeFrame_frameHead (t : Indices) (app : Bool) (index : BitVec 6) (arg : Word) :
    decodeFrame t app ⟨frameHead index, arg⟩ =
      match ((if app then decodeAcmd t index arg else none).or (decodeCmd t index arg)) with
      | some i => .ok i
      | none => .error (.unspelledIndex index) := by
  simp only [decodeFrame, frameHead_kind, frameHead_index, ne_eq, not_true_eq_false, if_false]
    <;> rfl

/-- A plain command of R132 is read as itself when no CMD55 announced it. -/
theorem decode_cmd {t : Indices} {index : BitVec 6} {arg : Word} {i : Instr} (h : decodeCmd t index arg = some i) :
    decode t (.wire false ⟨frameHead index, arg⟩) = .ok i := by
  simp [decode, decodeFrame_frameHead, h]

/-- An announced command with an ACMD row is read as that ACMD (R131). -/
theorem decode_acmd {t : Indices} {index : BitVec 6} {arg : Word} {i : Instr} (h : decodeAcmd t index arg = some i) :
    decode t (.wire true ⟨frameHead index, arg⟩) = .ok i := by
  simp [decode, decodeFrame_frameHead, h]

/-! ### The rows of an index -/

/-- Where no two rows share a key, each row is found by its key. -/
theorem lookup_of_mem {α β : Type} [BEq α] [LawfulBEq α] {rows : List (α × β)} (h : (rows.map (·.1)).Nodup) {row : α × β}
    (hr : row ∈ rows) : rows.lookup row.1 = some row.2 := by
  induction rows with
  | nil => cases hr
  | cons first rest ih =>
    obtain ⟨key, value⟩ := first
    simp only [List.map_cons, List.nodup_cons] at h
    rcases List.mem_cons.1 hr with rfl | hr
    · exact List.lookup_cons_self
    · have other : (row.1 == key) = false := beq_eq_false_iff_ne.2 fun e => h.1 (e ▸ List.mem_map_of_mem hr)
      rw [List.lookup_cons, other]
      exact ih h.2 hr

theorem plain_nodup {t : Indices} (h : t.wf = true) (arg : Word) : ((cmdRows t arg).map (·.1)).Nodup := by
  simp only [Indices.wf, Bool.and_eq_true, decide_eq_true_eq] at h
  exact h.1

theorem announced_nodup {t : Indices} (h : t.wf = true) (arg : Word) : ((acmdRows t arg).map (·.1)).Nodup := by
  simp only [Indices.wf, Bool.and_eq_true, decide_eq_true_eq] at h
  exact h.2

/-- A row of R132 is what its index decodes to. -/
theorem decodeCmd_row {t : Indices} (h : t.wf = true) {index : BitVec 6} {arg : Word} {i : Instr}
    (hr : (index, i) ∈ cmdRows t arg) : decodeCmd t index arg = some i := lookup_of_mem (plain_nodup h arg) hr

theorem decodeAcmd_row {t : Indices} (h : t.wf = true) {index : BitVec 6} {arg : Word} {i : Instr}
    (hr : (index, i) ∈ acmdRows t arg) : decodeAcmd t index arg = some i := lookup_of_mem (announced_nodup h arg) hr

end Sys2Proof.Laws
end

