-- ==== Sys2Proof/Laws/PerInstr.lean ====
section
/-! SUPPORT. The family Spelling: how the encoder spells each instruction, one lemma per constructor of Instr. -/

namespace Sys2Proof.Laws

/-- Under indices that tell the commands apart: a request's word is reserved exactly when the instruction is a reserved
request (R122); a wire command is a frame with start bit 0 and direction bit 1 whose index and argument R132's table gives to
the instruction (R130–R132). -/
def Spelling.Statement (i : Instr) : Prop :=
  ∀ t : Indices, t.wf = true → i.wf = true → match encode t i with
    | .request w => reservedRequestWord w.req = true ↔ ∃ word, i = .reservedRequest word
    | .wire app f => f.head.extractLsb' 6 2 = 1#2 ∧
        (if app then decodeAcmd t (f.head.extractLsb' 0 6) f.arg else decodeCmd t (f.head.extractLsb' 0 6) f.arg) = some i

/-- A frame that the encoder spells for a plain row of R132. -/
theorem spelled_as_cmd {i : Instr} {cmd : Indices → BitVec 6} {arg : Word} (he : ∀ t, encode t i = wireCode (cmd t) arg)
    (hr : i.wf = true → ∀ t, (cmd t, i) ∈ cmdRows t arg) : Spelling.Statement i := by
  intro t ht hi
  rw [he]
  dsimp only [wireCode]
  rw [frameHead_kind, frameHead_index]
  exact ⟨rfl, decodeCmd_row ht (hr hi t)⟩

/-- A frame that the encoder spells for an application-specific row of R132. -/
theorem spelled_as_acmd {i : Instr} {cmd : Indices → BitVec 6} {arg : Word} (he : ∀ t, encode t i = appCode (cmd t) arg)
    (hr : ∀ t, (cmd t, i) ∈ acmdRows t arg) : Spelling.Statement i := by
  intro t ht _
  rw [he]
  dsimp only [appCode]
  rw [frameHead_kind, frameHead_index]
  exact ⟨rfl, decodeAcmd_row ht (hr t)⟩

/-- A request whose word is not reserved. -/
theorem spelled_as_request {i : Instr} {w : RequestWords} (he : ∀ t, encode t i = .request w)
    (hr : reservedRequestWord w.req = false) (hi : ∀ word, i ≠ .reservedRequest word) : Spelling.Statement i := by
  intro t _ _
  rw [he]
  dsimp only
  rw [hr]
  exact ⟨fun h => absurd h Bool.false_ne_true, fun ⟨word, h⟩ => absurd h (hi word)⟩

theorem Spelling.mount (hostV2 : Bool) (volt : BitVec 9) : Spelling.Statement (.mount hostV2 volt) :=
  spelled_as_request (fun _ => rfl) (show reservedRequestWord (0#23 ++ BitVec.ofBool hostV2 ++ 1#8) = false by
    cases hostV2 <;> decide) nofun
theorem Spelling.unmount : Spelling.Statement .unmount :=
  spelled_as_request (fun _ => rfl) (by decide) nofun
theorem Spelling.read (start count : Word) (buf : BitVec 64) (len : Word) : Spelling.Statement (.read start count buf len) :=
  spelled_as_request (fun _ => rfl) (show reservedRequestWord 3#32 = false by decide) nofun
theorem Spelling.write (start count : Word) (buf : BitVec 64) (len : Word) : Spelling.Statement (.write start count buf len) :=
  spelled_as_request (fun _ => rfl) (show reservedRequestWord 4#32 = false by decide) nofun
theorem Spelling.getGeometry : Spelling.Statement .getGeometry :=
  spelled_as_request (fun _ => rfl) (by decide) nofun
theorem Spelling.getMediaKind : Spelling.Statement .getMediaKind :=
  spelled_as_request (fun _ => rfl) (by decide) nofun
theorem Spelling.getWp : Spelling.Statement .getWp :=
  spelled_as_request (fun _ => rfl) (by decide) nofun
theorem Spelling.isPresent : Spelling.Statement .isPresent :=
  spelled_as_request (fun _ => rfl) (by decide) nofun
theorem Spelling.requestStop : Spelling.Statement .requestStop :=
  spelled_as_request (fun _ => rfl) (by decide) nofun
theorem Spelling.lockUnlock (op : Word) (pwBuf : BitVec 64) (pwLen : Word) : Spelling.Statement (.lockUnlock op pwBuf pwLen) :=
  spelled_as_request (fun _ => rfl) (show reservedRequestWord 10#32 = false by decide) nofun
theorem Spelling.standby : Spelling.Statement .standby :=
  spelled_as_request (fun _ => rfl) (by decide) nofun
theorem Spelling.active : Spelling.Statement .active :=
  spelled_as_request (fun _ => rfl) (by decide) nofun
theorem Spelling.reservedRequest (word : Word) : Spelling.Statement (.reservedRequest word) :=
  fun _ _ h => ⟨fun _ => ⟨word, rfl⟩, fun _ => h⟩
theorem Spelling.cmd0 (arg : Word) : Spelling.Statement (.cmd0 arg) :=
  spelled_as_cmd (cmd := (·.cmd0)) (fun _ => rfl) (fun _ t => by simp [cmdRows])
theorem Spelling.cmd1 (arg : Word) : Spelling.Statement (.cmd1 arg) :=
  spelled_as_cmd (cmd := (·.cmd1)) (fun _ => rfl) (fun _ t => by simp [cmdRows])
theorem Spelling.cmd2 (arg : Word) : Spelling.Statement (.cmd2 arg) :=
  spelled_as_cmd (cmd := (·.cmd2)) (fun _ => rfl) (fun _ t => by simp [cmdRows])
theorem Spelling.cmd3Sd (arg : Word) : Spelling.Statement (.cmd3Sd arg) :=
  spelled_as_cmd (cmd := (·.cmd3)) (fun _ => rfl) fun h t => by
    simp only [Instr.wf, Bool.not_eq_true'] at h
    simp [cmdRows, h]
theorem Spelling.cmd3Mmc (arg : Word) : Spelling.Statement (.cmd3Mmc arg) :=
  spelled_as_cmd (cmd := (·.cmd3)) (fun _ => rfl) fun h t => by
    simp only [Instr.wf] at h
    simp [cmdRows, h]
theorem Spelling.cmd4 (arg : Word) : Spelling.Statement (.cmd4 arg) :=
  spelled_as_cmd (cmd := (·.cmd4)) (fun _ => rfl) (fun _ t => by simp [cmdRows])
theorem Spelling.cmd7 (arg : Word) : Spelling.Statement (.cmd7 arg) :=
  spelled_as_cmd (cmd := (·.cmd7)) (fun _ => rfl) (fun _ t => by simp [cmdRows])
theorem Spelling.cmd8 (arg : Word) : Spelling.Statement (.cmd8 arg) :=
  spelled_as_cmd (cmd := (·.cmd8)) (fun _ => rfl) (fun _ t => by simp [cmdRows])
theorem Spelling.cmd9 (arg : Word) : Spelling.Statement (.cmd9 arg) :=
  spelled_as_cmd (cmd := (·.cmd9)) (fun _ => rfl) (fun _ t => by simp [cmdRows])
theorem Spelling.cmd12 (arg : Word) : Spelling.Statement (.cmd12 arg) :=
  spelled_as_cmd (cmd := (·.cmd12)) (fun _ => rfl) (fun _ t => by simp [cmdRows])
theorem Spelling.cmd13 (arg : Word) : Spelling.Statement (.cmd13 arg) :=
  spelled_as_cmd (cmd := (·.cmd13)) (fun _ => rfl) (fun _ t => by simp [cmdRows])
theorem Spelling.cmd16 (arg : Word) : Spelling.Statement (.cmd16 arg) :=
  spelled_as_cmd (cmd := (·.cmd16)) (fun _ => rfl) (fun _ t => by simp [cmdRows])
theorem Spelling.cmd17 (arg : Word) : Spelling.Statement (.cmd17 arg) :=
  spelled_as_cmd (cmd := (·.cmd17)) (fun _ => rfl) (fun _ t => by simp [cmdRows])
theorem Spelling.cmd18 (arg : Word) : Spelling.Statement (.cmd18 arg) :=
  spelled_as_cmd (cmd := (·.cmd18)) (fun _ => rfl) (fun _ t => by simp [cmdRows])
theorem Spelling.cmd24 (arg : Word) : Spelling.Statement (.cmd24 arg) :=
  spelled_as_cmd (cmd := (·.cmd24)) (fun _ => rfl) (fun _ t => by simp [cmdRows])
theorem Spelling.cmd25 (arg : Word) : Spelling.Statement (.cmd25 arg) :=
  spelled_as_cmd (cmd := (·.cmd25)) (fun _ => rfl) (fun _ t => by simp [cmdRows])
theorem Spelling.cmd55 (arg : Word) : Spelling.Statement (.cmd55 arg) :=
  spelled_as_cmd (cmd := (·.cmd55)) (fun _ => rfl) (fun _ t => by simp [cmdRows])
theorem Spelling.acmd6 (arg : Word) : Spelling.Statement (.acmd6 arg) :=
  spelled_as_acmd (cmd := (·.acmd6)) (fun _ => rfl) (fun t => by simp [acmdRows])
theorem Spelling.acmd13 (arg : Word) : Spelling.Statement (.acmd13 arg) :=
  spelled_as_acmd (cmd := (·.acmd13)) (fun _ => rfl) (fun t => by simp [acmdRows])
theorem Spelling.acmd22 (arg : Word) : Spelling.Statement (.acmd22 arg) :=
  spelled_as_acmd (cmd := (·.acmd22)) (fun _ => rfl) (fun t => by simp [acmdRows])
theorem Spelling.acmd41 (arg : Word) : Spelling.Statement (.acmd41 arg) :=
  spelled_as_acmd (cmd := (·.acmd41)) (fun _ => rfl) (fun t => by simp [acmdRows])
theorem Spelling.acmd42 (arg : Word) : Spelling.Statement (.acmd42 arg) :=
  spelled_as_acmd (cmd := (·.acmd42)) (fun _ => rfl) (fun t => by simp [acmdRows])
theorem Spelling.acmd51 (arg : Word) : Spelling.Statement (.acmd51 arg) :=
  spelled_as_acmd (cmd := (·.acmd51)) (fun _ => rfl) (fun t => by simp [acmdRows])

end Sys2Proof.Laws
end

