-- ==== Sys2Proof/Laws/Recovery.lean ====
section
/-! SUPPORT. What Error Recovery changes (R400–R409): its entry, its return, and the two cases of `recover`. -/

namespace Sys2Proof.Laws

open Sys2Proof.Machine

/-- The Port operations of recovery: only the Port's answers and the log change. -/
structure Quiet (s t : State) : Prop where
  cfg : t.cfg = s.cfg
  h : t.h = s.h
  io : t.io = s.io
  seq : t.seq = s.seq
  mem : t.mem = s.mem
  card : t.card = s.card
  inputs : t.inputs = s.inputs
  finalized : t.finalized = s.finalized

theorem Quiet.refl (s : State) : Quiet s s := ⟨rfl, rfl, rfl, rfl, rfl, rfl, rfl, rfl⟩

theorem Quiet.trans {s t u : State} (a : Quiet s t) (b : Quiet t u) : Quiet s u :=
  ⟨b.cfg.trans a.cfg, b.h.trans a.h, b.io.trans a.io, b.seq.trans a.seq, b.mem.trans a.mem, b.card.trans a.card,
    b.inputs.trans a.inputs, b.finalized.trans a.finalized⟩

theorem readSts2_quiet (s : State) : Quiet s (readSts2 s).2 := by constructor <;> simp
theorem readReg_quiet (r : PortReg) (s : State) : Quiet s (readReg r s).2 := by constructor <;> simp
theorem writeReg_quiet (r : PortReg) (v : PortWord) (s : State) : Quiet s (writeReg r v s) := by constructor <;> simp

theorem spinWhileBusy_quiet (n : Nat) (s : State) : Quiet s (spinWhileBusy n s) := by
  induction n generalizing s with
  | zero => exact Quiet.refl s
  | succ n ih =>
    unfold spinWhileBusy
    dsimp only
    split
    · exact (readSts2_quiet s).trans (ih _)
    · exact readSts2_quiet s

/-- The abort and the soft reset touch only the controller (R403). -/
theorem abortController_quiet (s : State) : Quiet s (abortController s) := by
  unfold abortController
  dsimp only
  exact ((((((writeReg_quiet ..).trans (spinWhileBusy_quiet ..)).trans (readReg_quiet ..)).trans
    (readReg_quiet ..)).trans (writeReg_quiet ..)).trans (writeReg_quiet ..)).trans
    ((writeReg_quiet ..).trans (writeReg_quiet ..))

/-- What the entry of recovery leaves in each part of the state (R400–R403). -/
structure EntryFrame (s t : State) : Prop where
  cfg : t.cfg = s.cfg
  io : t.io = s.io
  seq : t.seq = { s.seq with saved := s.h.stickyError, polled := false }
  mem : t.mem = s.mem
  card : t.card = s.card
  inputs : t.inputs = s.inputs
  finalized : t.finalized = s.finalized
  h : t.h = { s.h with
    phase := .recovery, irqMask := [], inFlight := false
    dmaState := if s.cfg.dmaCapable then .idle else s.h.dmaState }

theorem recoveryEntry_frame (s : State) : EntryFrame s (recoveryEntry s) := by
  have core : ∀ u : State, Quiet u (let p := readSts2 u
      if commandBusy u.cfg.pos.sts2 p.1 then abortController p.2 else p.2) := fun u => by
    dsimp only
    split
    · exact (readSts2_quiet u).trans (abortController_quiet _)
    · exact readSts2_quiet u
  have q := core (setMask [] (writeReg .sts2 0#64 (writeReg .sts1 0#64
    (resetDma { s with h.phase := .recovery, seq.saved := s.h.stickyError, seq.polled := false }))))
  unfold recoveryEntry
  dsimp only at q ⊢
  constructor
  · rw [q.cfg]; simp [resetDma]; split <;> simp
  · rw [q.io]; simp [resetDma]; split <;> simp
  · rw [q.seq]; simp [resetDma]; split <;> simp
  · rw [q.mem]; simp [resetDma]; split <;> simp
  · rw [q.card]; simp [resetDma]; split <;> simp
  · rw [q.inputs]; simp [resetDma]; split <;> simp
  · rw [q.finalized]; simp [resetDma]; split <;> simp
  · rw [q.h]; simp [resetDma]; split <;> simp

/-- The two ways recovery goes on after its entry: the status poll of a selected card, or the return. -/
theorem recover_cases (s : State) :
    (s.seq.selected = true ∧ recover s = stageRca .recovery (·.cmd13) (recoveryEntry s)) ∨
    (s.seq.selected = false ∧ recover s = .next (recoveryReturn (recoveryEntry s))) := by
  have hs : (recoveryEntry s).seq.selected = s.seq.selected := by rw [(recoveryEntry_frame s).seq]
  unfold recover
  dsimp only
  rw [hs]
  cases s.seq.selected <;> simp

theorem stageRca_written {p : Phase} {cmd : Indices → BitVec 6} {s : State} {rca : BitVec 16} (h : s.h.rca = .holding rca) :
    stageRca p cmd s = .next (stage p cmd (rcaArg rca) s) := by simp [stageRca, h]

/-- Recovery answers a next state wherever the card's address is written. -/
theorem recover_next (s : State) (h : s.h.rca.written = true) : ∃ t, recover s = .next t := by
  obtain ⟨rca, hr⟩ := (CardRegister.written_iff _).1 h
  rcases recover_cases s with ⟨-, e⟩ | ⟨-, e⟩
  · exact ⟨_, e.trans (stageRca_written (by rw [(recoveryEntry_frame s).h]; exact hr))⟩
  · exact ⟨_, e⟩

/-- The return of recovery: the captured error is the result, the clock is halted, the channel is idle (R405, R406, R383). -/
theorem recoveryReturn_h (s : State) : (recoveryReturn s).h =
    { s.h with stickyError := s.seq.saved, clockOn := false, phase := .idle, opActive := false, req := none } := rfl

theorem recoveryReturn_result (s : State) : (recoveryReturn s).io.result = resultOf okResult s.seq.saved := rfl

theorem recoveryReturn_io (s : State) : (recoveryReturn s).io = { s.io with result := resultOf okResult s.seq.saved } := rfl
theorem recoveryReturn_seq (s : State) : (recoveryReturn s).seq = { s.seq with staged := none, done := none } := rfl
theorem recoveryReturn_mem (s : State) : (recoveryReturn s).mem = s.mem := rfl
theorem recoveryReturn_card (s : State) : (recoveryReturn s).card = s.card := rfl
theorem recoveryReturn_cfg (s : State) : (recoveryReturn s).cfg = s.cfg := rfl
theorem recoveryReturn_inputs (s : State) : (recoveryReturn s).inputs = s.inputs := rfl
theorem recoveryReturn_finalized (s : State) : (recoveryReturn s).finalized = s.finalized := rfl

/-! ### What a failing burst spoils -/

theorem spoilSectors_frame (s : State) : CommandFrame s (spoilSectors s) := by
  unfold spoilSectors
  generalize burstSectors s = l
  induction l generalizing s with
  | nil => exact (PortFrame.refl s).command
  | cons x l ih => exact (spoilSector_frame x s).trans (ih _)

theorem spoilBurst_frame (r : TransferRequest) (s : State) : CommandFrame s (spoilBurst r s) := by
  unfold spoilBurst
  split
  · exact (spoilSectors_frame s).trans (spoilBuffer_frame ..)
  · exact spoilSectors_frame s

/-- Spoiling changes no handle field and no sequencer field. -/
theorem spoilSector_h (x : Nat) (s : State) : (spoilSector x s).h = s.h := by
  unfold spoilSector
  split
  · dsimp only; rw [drawBytes_env]
  · rfl
theorem spoilSector_seq (x : Nat) (s : State) : (spoilSector x s).seq = s.seq := by
  unfold spoilSector
  split
  · exact (drawBytes_frame 512 s).seq
  · rfl
theorem spoilBuffer_h (a n : Nat) (s : State) : (spoilBuffer a n s).h = s.h := by
  unfold spoilBuffer; dsimp only; rw [drawBytes_env]
theorem spoilBuffer_seq (a n : Nat) (s : State) : (spoilBuffer a n s).seq = s.seq := (drawBytes_frame n s).seq

theorem spoilSectors_h (s : State) : (spoilSectors s).h = s.h := by
  unfold spoilSectors
  generalize burstSectors s = l
  induction l generalizing s with
  | nil => rfl
  | cons x l ih => exact (ih _).trans (spoilSector_h x s)

theorem spoilSectors_seq (s : State) : (spoilSectors s).seq = s.seq := by
  unfold spoilSectors
  generalize burstSectors s = l
  induction l generalizing s with
  | nil => rfl
  | cons x l ih => exact (ih _).trans (spoilSector_seq x s)

@[simp] theorem spoilBurst_h (r : TransferRequest) (s : State) : (spoilBurst r s).h = s.h := by
  unfold spoilBurst; split <;> simp [spoilBuffer_h, spoilSectors_h]

@[simp] theorem spoilBurst_seq (r : TransferRequest) (s : State) : (spoilBurst r s).seq = s.seq := by
  unfold spoilBurst; split <;> simp [spoilBuffer_seq, spoilSectors_seq]

@[simp] theorem spoilBurst_cfg (r : TransferRequest) (s : State) : (spoilBurst r s).cfg = s.cfg :=
  (spoilBurst_frame r s).cfg
@[simp] theorem spoilBurst_io (r : TransferRequest) (s : State) : (spoilBurst r s).io = s.io :=
  (spoilBurst_frame r s).io
@[simp] theorem spoilBurst_inputs (r : TransferRequest) (s : State) : (spoilBurst r s).inputs = s.inputs :=
  (spoilBurst_frame r s).inputs

end Sys2Proof.Laws
end

