-- ==== Sys2Proof/Laws/Step.lean ====
section
/-! SUPPORT. What one step can be: a request, an arrival, a wire command, a control step, or nothing. -/

namespace Sys2Proof.Laws

open Sys2Proof.Machine

/-- A control step (R31). -/
theorem moves_advance {s : State} (hc : configured s = true) (ha : s.h.opActive = true) (hs : s.seq.staged = none) :
    Moves s (advance s) := by
  have hc' : configured { s with inputs := none :: s.inputs } = true := hc
  constructor
  · intro hi
    simp [step, hc, nextCode, hi, hs, stepAlone, ha, fetched]
  · simp [step, hc', nextCode, hs, stepAlone, ha, fetched]

/-- A control step after a command. -/
theorem moves_after {s : State} {r : CmdResult} (hc : configured s = true) (ha : s.h.opActive = true)
    (hs : s.seq.staged = none) (hd : s.seq.done = some r) : Moves s (advanceAfter r s) := by
  have m := moves_advance hc ha hs
  unfold advance at m
  rwa [hd] at m

/-- A control step of a phase without a command. -/
theorem moves_alone {s : State} (hc : configured s = true) (ha : s.h.opActive = true) (hs : s.seq.staged = none)
    (hd : s.seq.done = none) : Moves s (advanceAlone s) := by
  have m := moves_advance hc ha hs
  unfold advance at m
  rwa [hd] at m

/-- The frame byte of a staged command is start 0, direction 1, index (R130). -/
theorem frameHead_bits (index : BitVec 6) : frameHead index = 0#1 ++ 1#1 ++ index := by
  revert index; decide

theorem fetched_cfg (s : State) : (fetched s).cfg = s.cfg := by unfold fetched; split <;> rfl
theorem fetched_h (s : State) : (fetched s).h = s.h := by unfold fetched; split <;> rfl
theorem fetched_seq (s : State) : (fetched s).seq = s.seq := by unfold fetched; split <;> rfl
theorem fetched_mem (s : State) : (fetched s).mem = s.mem := by unfold fetched; split <;> rfl
theorem fetched_card (s : State) : (fetched s).card = s.card := by unfold fetched; split <;> rfl
theorem fetched_env (s : State) : (fetched s).env = s.env := by unfold fetched; split <;> rfl
theorem fetched_finalized (s : State) : (fetched s).finalized = s.finalized := by unfold fetched; split <;> rfl

/-- Every way a step can answer a next state. -/
theorem step_cases {s t : State} (h : step s = .next t) :
    configured s = true ∧
    ((∃ w rest, s.inputs = some (.request w) :: rest ∧ exec (decodeRequest w) (fetched s) = .next t) ∨
      (∃ f i, s.seq.staged = some f ∧ decode s.cfg.index (.wire s.seq.app f) = .ok i ∧ exec i (fetched s) = .next t) ∨
      (∃ i rest, s.inputs = some i :: rest ∧ (∀ w, i ≠ .request w) ∧ arrive i (fetched s) = .next t) ∨
      (s.seq.staged = none ∧ s.h.opActive = true ∧ advance (fetched s) = .next t) ∨
      (s.seq.staged = none ∧ s.h.opActive = false ∧ t = fetched s)) := by
  unfold step at h
  split at h
  · rename_i hc
    refine ⟨hc, ?_⟩
    split at h
    · rename_i code hn
      split at h
      · rename_i i hd
        unfold nextCode at hn
        split at hn
        · rename_i w rest hi
          cases hn
          refine .inl ⟨w, rest, hi, ?_⟩
          cases hd
          exact h
        · cases hn
        all_goals
          obtain ⟨f, hs, rfl⟩ := Option.map_eq_some_iff.1 hn
          exact .inr (.inl ⟨f, i, hs, hd, h⟩)
      · cases h
    · rename_i hn
      unfold nextCode at hn
      unfold stepAlone at h
      split at hn
      · cases hn
      · rename_i i rest hi hw
        simp only [hw] at h
        exact .inr (.inr (.inl ⟨i, rest, hw, fun w e => hi w (by rw [← e]), h⟩))
      all_goals
        rename_i hi
        have hs := Option.map_eq_none_iff.1 hn
        simp only [hi] at h
        split at h
        · rename_i ha; exact .inr (.inr (.inr (.inl ⟨hs, ha, h⟩)))
        · rename_i ha
          injection h with h
          exact .inr (.inr (.inr (.inr ⟨hs, by simpa using ha, h.symm⟩)))
  · cases h

/-! ### The end of a burst (R299, R437) -/

/-- What settling a burst can be: nothing, or any bytes where its direction puts them. -/
theorem settleBurst_cases (r : TransferRequest) (s : State) :
    settleBurst r s = s ∨
    (r.dir = .read ∧ settleBurst r s = spoilBuffer s.seq.burst.buf (512 * s.seq.burst.n) s) ∨
    (r.dir = .write ∧ settleBurst r s = spoilSectors s) := by
  unfold settleBurst
  split
  · cases hd : r.dir <;> simp
  · exact .inl rfl

theorem settleBurst_frame (r : TransferRequest) (s : State) : CommandFrame s (settleBurst r s) := by
  rcases settleBurst_cases r s with e | ⟨-, e⟩ | ⟨-, e⟩ <;> rw [e]
  · exact (PortFrame.refl s).command
  · exact spoilBuffer_frame ..
  · exact spoilSectors_frame s

@[simp] theorem settleBurst_h (r : TransferRequest) (s : State) : (settleBurst r s).h = s.h := by
  rcases settleBurst_cases r s with e | ⟨-, e⟩ | ⟨-, e⟩ <;> rw [e]
  · exact spoilBuffer_h ..
  · exact spoilSectors_h s
@[simp] theorem settleBurst_seq (r : TransferRequest) (s : State) : (settleBurst r s).seq = s.seq := by
  rcases settleBurst_cases r s with e | ⟨-, e⟩ | ⟨-, e⟩ <;> rw [e]
  · exact spoilBuffer_seq ..
  · exact spoilSectors_seq s
@[simp] theorem settleBurst_cfg (r : TransferRequest) (s : State) : (settleBurst r s).cfg = s.cfg :=
  (settleBurst_frame r s).cfg
@[simp] theorem settleBurst_io (r : TransferRequest) (s : State) : (settleBurst r s).io = s.io :=
  (settleBurst_frame r s).io
@[simp] theorem settleBurst_inputs (r : TransferRequest) (s : State) : (settleBurst r s).inputs = s.inputs :=
  (settleBurst_frame r s).inputs

end Sys2Proof.Laws
end

