-- ==== Sys2Proof/Tests/Slice0.lean ====
section
/-! SUPPORT. The model's own tests. Expected values are the spec's: the encodings of `30_encoding.md`, the vectors and
programs of `95_test_vectors.md`, or the rules named beside a test. The last part shows, for every statement with
hypotheses, states and operands that meet them. -/

namespace Sys2Proof.Tests

open Sys2Proof.Machine Sys2Proof.Claims

/-- The positions of R59–R66 and R140. -/
def pos : Positions := .reference

/-! ### Well-formedness: each check refuses an ill-formed term -/

theorem test_wf_refuses_legal_word_as_reserved : (Instr.reservedRequest 0x00000002#32).wf = false := by decide
theorem test_wf_refuses_mount_word_as_reserved : (Instr.reservedRequest 0x00000101#32).wf = false := by decide
theorem test_wf_refuses_assigned_address_of_sd : (Instr.cmd3Sd 0x00010000#32).wf = false := by decide
theorem test_wf_refuses_unassigned_address_of_mmc : (Instr.cmd3Mmc 0x0000FFFF#32).wf = false := by decide
theorem test_config_wf_refuses_small_chunk : ({ Config.reference with chunkLimit := 2 } : Config).wf = false := by decide
theorem test_config_wf_refuses_large_chunk : ({ Config.reference with chunkLimit := 32768 } : Config).wf = false := by
  decide
theorem test_config_wf_refuses_alignment : ({ Config.reference with dmaAlign := 6 } : Config).wf = false := by decide
theorem test_config_wf_accepts_reference : Config.reference.wf = true := by decide

/-! ### Decoding: words written out from the tables -/

/-- A request with its opcode word and five argument words. -/
def words (req a0 a1 a2 a3 a4 : Word) : Code := .request ⟨req, a0, a1, a2, a3, a4⟩

theorem test_decode_mount :
    decode .reference (words 0x101 0x00FF8000 0 0 0 0) = .ok (.mount true 0x1FF) ∧
    decode .reference (words 0x001 0x00008000 0 0 0 0) = .ok (.mount false 0x001) := by decide
theorem test_decode_transfers :
    decode .reference (words 3 1000 5 0x20000004 0 2560) = .ok (.read 1000 5 0x20000004 2560) ∧
    decode .reference (words 4 0 1 0x20000000 0x7 512) = .ok (.write 0 1 0x720000000 512) := by decide
theorem test_decode_host_operations :
    decode .reference (words 2 0 0 0 0 0) = .ok .unmount ∧ decode .reference (words 5 0 0 0 0 0) = .ok .getGeometry ∧
    decode .reference (words 6 0 0 0 0 0) = .ok .getMediaKind ∧ decode .reference (words 7 0 0 0 0 0) = .ok .getWp ∧
    decode .reference (words 8 0 0 0 0 0) = .ok .isPresent ∧ decode .reference (words 9 0 0 0 0 0) = .ok .requestStop := by decide
theorem test_decode_requests_without_step :
    decode .reference (words 0x0A 1 0x20000000 0x7 16 0) = .ok (.lockUnlock 1 0x720000000 16) ∧
    decode .reference (words 0x0B 0 0 0 0 0) = .ok .standby ∧ decode .reference (words 0x0C 0 0 0 0 0) = .ok .active := by decide
theorem test_decode_reserved_requests :
    decode .reference (words 0x00000201 0 0 0 0 0) = .ok (.reservedRequest 0x00000201) ∧
    decode .reference (words 0x00000103 0 0 0 0 0) = .ok (.reservedRequest 0x00000103) ∧
    decode .reference (words 0x00000000 0 0 0 0 0) = .ok (.reservedRequest 0x00000000) ∧
    decode .reference (words 0x0000000D 0 0 0 0 0) = .ok (.reservedRequest 0x0000000D) ∧
    decode .reference (words 0x000000FF 0 0 0 0 0) = .ok (.reservedRequest 0x000000FF) ∧
    decode .reference (words 0x00010003 0 0 0 0 0) = .ok (.reservedRequest 0x00010003) := by decide
/-- Start bit 0, direction bit 1, six index bits (R130). -/
theorem test_decode_commands :
    decode .reference (.wire false ⟨0b01000000, 0⟩) = .ok (.cmd0 0) ∧
    decode .reference (.wire false ⟨0b01000001, 0x00FF8000⟩) = .ok (.cmd1 0x00FF8000) ∧
    decode .reference (.wire false ⟨0b01000010, 0⟩) = .ok (.cmd2 0) ∧
    decode .reference (.wire false ⟨0b01000011, 0⟩) = .ok (.cmd3Sd 0) ∧
    decode .reference (.wire false ⟨0b01000011, 0x00010000⟩) = .ok (.cmd3Mmc 0x00010000) ∧
    decode .reference (.wire false ⟨0b01000100, 0x04040000⟩) = .ok (.cmd4 0x04040000) ∧
    decode .reference (.wire false ⟨0b01000111, 0xB3680000⟩) = .ok (.cmd7 0xB3680000) ∧
    decode .reference (.wire false ⟨0b01001000, 0x000001AA⟩) = .ok (.cmd8 0x000001AA) ∧
    decode .reference (.wire false ⟨0b01001001, 0xB3680000⟩) = .ok (.cmd9 0xB3680000) ∧
    decode .reference (.wire false ⟨0b01001100, 0⟩) = .ok (.cmd12 0) ∧
    decode .reference (.wire false ⟨0b01001101, 0xB3680000⟩) = .ok (.cmd13 0xB3680000) ∧
    decode .reference (.wire false ⟨0b01010000, 512⟩) = .ok (.cmd16 512) := by decide
theorem test_decode_data_commands :
    decode .reference (.wire false ⟨0b01010001, 100⟩) = .ok (.cmd17 100) ∧
    decode .reference (.wire false ⟨0b01010010, 3⟩) = .ok (.cmd18 3) ∧
    decode .reference (.wire false ⟨0b01011000, 51200⟩) = .ok (.cmd24 51200) ∧
    decode .reference (.wire false ⟨0b01011001, 1000⟩) = .ok (.cmd25 1000) := by decide
theorem test_decode_application_commands :
    decode .reference (.wire false ⟨0b01110111, 0xB3680000⟩) = .ok (.cmd55 0xB3680000) ∧
    decode .reference (.wire true ⟨0b01000110, 2⟩) = .ok (.acmd6 2) ∧
    decode .reference (.wire true ⟨0b01001101, 0⟩) = .ok (.acmd13 0) ∧
    decode .reference (.wire true ⟨0b01010110, 0⟩) = .ok (.acmd22 0) ∧
    decode .reference (.wire true ⟨0b01101001, 0x40FF8000⟩) = .ok (.acmd41 0x40FF8000) ∧
    decode .reference (.wire true ⟨0b01101010, 0⟩) = .ok (.acmd42 0) ∧
    decode .reference (.wire true ⟨0b01110011, 0⟩) = .ok (.acmd51 0) := by decide
/-- A start bit of 1, a direction bit of 0, an index R132 does not list, an ACMD that no CMD55 announced (R131). -/
theorem test_decode_rejects :
    decode .reference (.wire false ⟨0b11000000, 0⟩) = .error .notAHostFrame ∧
    decode .reference (.wire false ⟨0b00000000, 0⟩) = .error .notAHostFrame ∧
    decode .reference (.wire false ⟨0b01000101, 0⟩) = .error (.unspelledIndex 5) ∧
    decode .reference (.wire false ⟨0b01101001, 0⟩) = .error (.unspelledIndex 41) ∧
    decode .reference (.wire true ⟨0b01111111, 0⟩) = .error (.unspelledIndex 63) := by decide
theorem test_table_words :
    decodeTableWord 32 0x00000101 = some (.mount true 0) ∧ decodeTableWord 32 0x00000004 = some (.write 0 0 0 0) ∧
    decodeTableWord 8 0x51 = some (.cmd17 0) ∧ decodeTableWord 8 0x69 = some (.acmd41 0) ∧
    decodeTableWord 40 0x00000143 = some (.cmd3Mmc 0x01000000) ∧ decodeTableWord 8 0x45 = none := by decide

/-! ### Status words (`95_test_vectors.md` 2.2) -/

theorem test_r1_single_bits :
    (r1Error pos.r1 0x00000900, r1Error pos.r1 0x00000920, r1Error pos.r1 0x80000000, r1Error pos.r1 0x40000000,
      r1Error pos.r1 0x20000000) =
      (none, none, some .outOfRange, some .addressError, some .blockLengthError) ∧
    (r1Error pos.r1 0x10000000, r1Error pos.r1 0x04000000, r1Error pos.r1 0x02000000, r1Error pos.r1 0x00800000,
      r1Error pos.r1 0x00400000) =
      (some .eraseError, some .writeProtectViolation, some .cardLocked, some .crc, some .illegalCommand) ∧
    (r1Error pos.r1 0x00200000, r1Error pos.r1 0x00100000, r1Error pos.r1 0x00080000, r1Error pos.r1 0x00000008) =
      (some .eccFailed, some .controllerInternalError, some .cardInternalError, some .authenticationSequenceError) := by
  decide
theorem test_r1_unlisted_bits_and_order :
    (r1Error pos.r1 0x08000000, r1Error pos.r1 0x01000000, r1Error pos.r1 0x00010000, r1Error pos.r1 0x00000004) =
      (none, none, none, none) ∧
    (r1Error pos.r1 0x00480000, r1Error pos.r1 0xFFFFFFFF) = (some .illegalCommand, some .outOfRange) ∧
    r1ErrorExcept pos.r1 0x02000000 0x02000700 = none := by decide
theorem test_sts2_classification :
    (classify pos.sts2 0x2000 true, classify pos.sts2 0x2040 false, classify pos.sts2 0x2000 false,
      classify pos.sts2 0x2008 false) =
      (none, some .timeoutCommand, some .timeoutHost, some .timeoutData) ∧
    (classify pos.sts2 0xA002 true, classify pos.sts2 0x2006 true, classify pos.sts2 0x2001 true,
      classify pos.sts2 0x2030 true, classify pos.sts2 0x2380 true) =
      (some .hostIllegalAccess, some .hostEndBitError, some .hostCommandError, some .hostBufferUnderrun, none) := by
  decide
theorem test_busy_ready :
    (busyReady pos.sts2 0x2000, busyReady pos.sts2 0x6000, busyReady pos.sts2 0x0000) = (true, false, false) := by decide
theorem test_error_codes :
    (errorCode .outOfRange, errorCode .authenticationSequenceError, errorCode .hostIllegalAccess, errorCode .commandBusy,
      errorCode .notSupportedCommand, errorCode .notMounted) = (0x01, 0x0D, 0x10, 0x19, 0x20, 0x29) := by decide
theorem test_last_sector_tolerance :
    (r1ErrorLast pos.r1 true 0x80000900, r1ErrorLast pos.r1 false 0x80000900, r1ErrorLast pos.r1 true 0xC0000900,
      r1ErrorLast pos.r1 true 0x80000920, r1ErrorLast pos.r1 true 0x00400900) =
      (none, some .outOfRange, some .outOfRange, none, some .illegalCommand) := by decide

/-! ### Operand forms (`95_test_vectors.md`, fixtures, 2.2–2.4) -/

def csdE1 : Image := 0x00000000000900FFC003800000000000#128
def csdHC1 : Image := 0x4000000000090000EDC7000000000000#128
def csdMMC1 : Image := 0x90000000000903FFC003FFE000000000#128
def scrHC1 : BitVec 64 := 0x0205800000000000#64

theorem test_geometry_formulas :
    sectorCount pos .sd .r2_00 csdE1 = some 524288 ∧ sectorCount pos .sd .r3_00 csdHC1 = some 62332928 ∧
    sectorCount pos .mmc .mmc csdMMC1 = some 2097152 ∧ sectorCount pos .sd .r1_10 csdHC1 = none ∧
    sectorCount pos .sd .r3_00 csdMMC1 = none ∧ sectorCount pos .sd .r2_00 (0x3FFFFF#128 <<< 48 ||| 1#128 <<< 126) =
      some 4294967296 := by decide
theorem test_csd_fields :
    (csdStructure pos csdE1, readBlLen pos csdE1, cSizeV1 pos csdE1, cSizeMult pos csdE1, dsrImplemented pos csdE1) =
      (0, 9, 0x3FF, 7, false) ∧
    (csdStructure pos csdMMC1, readBlLen pos csdMMC1, cSizeV1 pos csdMMC1, cSizeMult pos csdMMC1, eraseSectorsMmc pos csdMMC1) =
      (2, 9, 0xFFF, 7, 1024) ∧ (csdStructure pos csdHC1, cSizeV2 pos csdHC1) = (1, 0xEDC7) := by decide
theorem test_scr_fields :
    sdRevision pos scrHC1 = .r3_00 ∧ wideBus pos true .sd scrHC1 = true ∧ wideBus pos true .mmc scrHC1 = false ∧
    sdRevision pos 0x0200000000000000 = .r2_00 ∧ sdRevision pos 0x0000800000000000 = .r1_0x ∧
    sdRevision pos 0x0100000000000000 = .r1_10 ∧ sdRevision pos 0x0F00800000000000 = .r2_00 := by decide
/-- SD status of HC1: byte 8 is 0x04, byte 10 is 0x90; the protected area of R262's rows. -/
theorem test_sd_status_fields :
    speedClass pos (0x04#512 <<< 440) = 4 ∧ eraseSectorsSd pos .r3_00 csdHC1 (0x90#512 <<< 424) = 8192 ∧
    protectedSectors pos false csdE1 (2#512 <<< 448) = 1024 ∧ protectedSectors pos true csdHC1 (0x01000000#512 <<< 448) = 32768 ∧
    eraseSectorsSd pos .r1_10 (31#128 <<< 39) 0 = 32 ∧ eraseSectorsSd pos .r2_00 csdE1 (15#512 <<< 428) = 524288 := by decide +kernel
theorem test_write_protect_flags :
    (writeProtectFlagsOf pos false false 0, writeProtectFlagsOf pos true false 0, writeProtectFlagsOf pos false false (1 <<< 12),
      writeProtectFlagsOf pos false false (1 <<< 13), writeProtectFlagsOf pos false true 0, writeProtectFlagsOf pos true true
        (3 <<< 12)) = (0x0, 0x1, 0x2, 0x4, 0x8, 0xF) := by decide
theorem test_wire_arguments :
    (wireAddr true 100, wireAddr false 100, wireAddr false 1003, wireAddr false 524287) =
      (100, 51200, 513536, 0x0FFFFE00) ∧
    (opCondArg true 0x1FF, opCondArg false 0x1FF, opCondArg true 0x001) = (0x40FF8000, 0x00FF8000, 0x40008000) ∧
    ifCondArg Config.reference = 0x000001AA ∧ dsrArg Config.reference = 0x04040000 ∧
    setRcaArg Config.reference = 0x00010000 ∧ rcaArg 0xB368 = 0xB3680000 := by decide
theorem test_modes_and_bursts :
    (chooseMode Config.reference 0x20000000, chooseMode Config.reference 0x20000004, chooseMode Config.reference 0x20000008,
      chooseMode { Config.reference with dmaCapable := false } 0x20000000) = (.dma, .sw, .dma, .sw) ∧
    (nextBurst ⟨0, 7, 0, 3584, .read, 6⟩ 3 100).n = 1 ∧ (nextBurst ⟨0, 7, 0, 3584, .read, 3⟩ 3 100).n = 3 ∧
    (nextBurst ⟨97, 3, 0, 1536, .read, 0⟩ 8 100).last = true ∧ (nextBurst ⟨96, 3, 0, 1536, .read, 0⟩ 8 100).last = false ∧
    chooseBlockMode 2 = .single ∧ chooseBlockMode 3 = .multi ∧ autoStopUsed true .mmc = true ∧ autoStopUsed true .sd = false
      := by decide

/-! ### Memory -/

theorem test_memory_write_keeps_form :
    Memory.writeBytes [(3, 7)] 2 [9, 0] = [(2, 9)] ∧ Memory.writeBytes [(3, 7)] 4 [1] = [(3, 7), (4, 1)] ∧
    Memory.read [(3, 7), (5, 1)] 5 = 1 ∧ Memory.read [(3, 7)] 4 = 0 := by decide
theorem test_register_bytes_are_big_endian : bigEndian 64 [2, 5, 0x80, 0, 0, 0, 0, 0] = scrHC1 := by decide

/-! ### One step on a small state -/

/-- A channel after driver init with a card present and a short spin. -/
def base : State := State.resetWith { Config.reference with busySpinLimit := 2 } true

/-- What a field of the next state is. -/
def after {α : Type} (r : Result) (f : State → α) : Option α :=
  match r with
  | .next s => some (f s)
  | .fault _ | .refused _ => none

/-- The base state with the answers of one undisturbed command: ready, response, clean status. -/
def answering (response : PortWord) : State :=
  { base with env.sts2 := [0x2000, 0x2000], env.events := [some .respEnd], env.rsp := [response] }

/-- A mounted, unlocked channel on a card of N sectors. -/
def mounted (sectors : Nat) : State :=
  { base with
    h.mountState := .mountedUnlocked, h.cardSectorSize := sectors, h.mediaKind := .sd, h.highCapacity := true
    h.rca := .holding 0xB368 }

theorem test_reset_values :
    base.h.phase = .idle ∧ base.h.mountState = .unmounted ∧ base.h.cardPresent = true ∧ base.busy = false ∧
    base.h.busWidth = .one ∧ base.h.transferChunkLimit = 8 ∧ base.h.dmaState = .idle ∧
    base.log = [⟨base.cfg.portHandle, .cardDetectLevel, false, [], .idle⟩] := by
  decide
/-- R277: RESULT 0x22, no command spelled, no clock. -/
theorem test_mount_without_card :
    after (exec (.mount true 0x1FF) { base with env.cardDetect := [false] })
      (fun t => (t.io.result, t.h.clockOn, t.seq.staged, t.h.opActive)) = some (0x22, false, none, false) := by decide
theorem test_mount_spells_cmd0 :
    after (exec (.mount true 0x1FF) { base with env.cardDetect := [true], env.regs := [0x80] })
      (fun t => (t.seq.staged, t.h.clockOn, t.h.opActive, t.log.head?.map (·.call))) =
      some (some ⟨0x40, 0⟩, true, true, some (.write .clkCtrl 0x180)) := by decide
/-- E-2: the rows of P1, without a Port call. -/
theorem test_read_range :
    after (exec (.read 524288 1 0x20000000 512) (mounted 524288)) (fun t => (t.io.result, t.log)) =
      some (0x01, (mounted 524288).log) ∧
    after (exec (.read 0xFFFFFFFF 2 0x20000000 1024) (mounted 524288)) (fun t => (t.io.result, t.h.opActive)) =
      some (0x01, false) := by decide
theorem test_read_starts :
    after (exec (.read 524287 1 0x20000004 512) { mounted 524288 with env.regs := [0] })
      (fun t => (t.h.phase, t.h.xferMode, t.h.clockFreq, t.h.clockOn)) = some (.xBurst, .sw, .fXfer, true) := by decide
theorem test_write_protected_and_empty :
    after (exec (.write 0 1 0x20000000 512) { mounted 1000 with h.writeProtectFlags := 2 }) (fun t => t.io.result) =
      some 0x05 ∧
    after (exec (.write 1000 1 0x20000000 512) { mounted 1000 with h.writeProtectFlags := 2 }) (fun t => t.io.result) =
      some 0x01 ∧
    after (exec (.write 1000 0 0x20000000 0) (mounted 1000)) (fun t => t.io.result) = some 0x01 ∧
    after (exec (.write 5 0 0x20000000 0) (mounted 1000)) (fun t => (t.io.result, t.h.clockOn)) = some (0x00, false) := by
  decide
theorem test_geometry_of_largest_card :
    after (exec .getGeometry (mounted 4294967296)) (fun t => (t.io.data0, t.io.data2, t.io.result)) = some (0, 1, 0) := by
  decide
theorem test_getters :
    after (exec .getMediaKind (mounted 9)) (fun t => t.io.data0) = some 0x20 ∧
    after (exec .getWp { mounted 9 with h.writeProtectFlags := 0xA }) (fun t => t.io.data0) = some 0xA ∧
    after (exec .isPresent { base with env.cardDetect := [false] }) (fun t => (t.io.data0, t.h.cardPresent)) =
      some (0, false) := by decide
theorem test_unmount_and_stop :
    after (exec .unmount { mounted 9 with h.compulsoryStop := true })
      (fun t => (t.h.mountState, t.h.compulsoryStop, t.h.rca, t.io.result)) = some (.unmounted, false, .holding 0, 0) ∧
    after (exec .requestStop { mounted 9 with h.opActive := true, io.result := 7 })
      (fun t => (t.h.compulsoryStop, t.io.result)) = some (true, 7) := by decide
/-- R160's calls for CMD0, with 0x6000 once before the bus is ready. -/
theorem test_cmd0_calls :
    after (exec (.cmd0 0) { base with env.sts2 := [0x6000, 0x2000, 0x2000], env.events := [some .respEnd], log := [] })
      (fun t => (t.seq.done, (t.log.map (·.call)).reverse.take 6)) = some (some .ok,
        [.read .sts2, .read .sts2, .write .sts1 0, .write .sts2 0, .write .arg 0, .lockCpu]) := by decide
theorem test_cmd0_busy :
    after (exec (.cmd0 0) { base with env.sts2 := [0x6000, 0x0000], log := [] })
      (fun t => (t.seq.done, t.log.map (·.call))) = some (some (.failed .commandBusy), [.read .sts2, .read .sts2]) := by decide
theorem test_ocr_commands :
    after (exec (.cmd1 0x00FF8000) (answering 0x80FF8000)) (fun t => t.h.ocr) = some (.holding 0x80FF8000) ∧
    after (exec (.acmd41 0x40FF8000) (answering 0xC0FF8000)) (fun t => (t.h.ocr, t.h.lastR1)) =
      some (.holding 0xC0FF8000, 0) := by decide
theorem test_image_commands :
    after (exec (.cmd2 0) { answering 0 with env.rsp := [0x00000000000900FF, 0xC003800000000000, 9] })
      (fun t => (t.h.cid, t.h.csd, t.env.rsp)) = some (.holding csdE1, .unwritten, [9]) ∧
    after (exec (.cmd9 0) { answering 0 with env.rsp := [0x4000000000090000, 0xEDC7000000000000] })
      (fun t => (t.h.cid, t.h.csd, (t.log.map (·.call)).take 3)) =
      some (.unwritten, .holding csdHC1, [.read .rsp, .read .rsp, .read .sts2]) := by decide
theorem test_address_commands :
    after (exec (.cmd3Sd 0) (answering 0xB3680500)) (fun t => t.h.rca) = some (.holding 0xB368) ∧
    after (exec (.cmd3Mmc 0x00010000) (answering 0x00000500)) (fun t => t.h.rca) = some (.holding 1) ∧
    after (exec (.cmd3Mmc 0x00010000) (answering 0x00400500)) (fun t => (t.h.rca, t.seq.done)) =
      some (.unwritten, some (.failed .illegalCommand)) := by decide
theorem test_cmd4_and_cmd8 :
    after (exec (.cmd4 0x04040000) (answering 0)) (fun t => (t.h.dsr, t.env.rsp)) = some (.holding 0x0404, [0]) ∧
    after (exec (.cmd8 0x000001AA) (answering 0x000001AB)) (fun t => t.h.ifCond) = some (.holding 0x000001AB) := by decide
/-- A locked card's CMD7 is accepted, another error bit is not (R191, `95_test_vectors.md` 2.3). -/
theorem test_cmd7_lock_bit :
    after (exec (.cmd7 0xB3680000) (answering 0x02000700)) (fun t => (t.seq.done, t.h.lastR1)) =
      some (some .ok, 0x02000700) ∧
    after (exec (.cmd7 0xB3680000) (answering 0x02400700)) (fun t => t.seq.done) =
      some (some (.failed .illegalCommand)) := by decide
theorem test_status_commands :
    after (exec (.cmd12 0) (answering 0x80000B00)) (fun t => (t.seq.done, t.h.lastR1)) = some (some .ok, 0x80000B00) ∧
    after (exec (.cmd13 0xB3680000) (answering 0x00400900)) (fun t => (t.seq.done, t.h.lastR1)) =
      some (some .ok, 0x00400900) ∧
    after (exec (.cmd16 512) (answering 0x20000900)) (fun t => t.seq.done) = some (some (.failed .blockLengthError)) := by
  decide
theorem test_cmd55_announces :
    after (exec (.cmd55 0) (answering 0x00000120)) (fun t => t.seq.app) = some true ∧
    after (exec (.cmd55 0) (answering 0x00400000)) (fun t => (t.seq.app, t.seq.done)) =
      some (false, some (.failed .illegalCommand)) := by decide
theorem test_bus_commands :
    after (exec (.acmd6 2) (answering 0x920)) (fun t => (t.h.busWidth, t.log.head?.map (·.call))) =
      some (.four, some (.busSelect .four)) ∧
    after (exec (.acmd42 0) (answering 0x920)) (fun t => (t.h.busWidth, t.seq.done)) = some (.one, some .ok) := by decide

/-- The answers of a register-data command (R181): response, buffer ready, access end, and the bytes. -/
def registerData (bytes : List Byte) : State :=
  { answering 0x920 with
    env.sts2 := [0x2000, 0x2000, 0x2000, 0x2000]
    env.events := [some .respEnd, some .bufReady, some .accessEnd], env.bytes := bytes }

theorem test_register_data_commands :
    after (exec (.acmd51 0) (registerData [2, 5, 0x80, 0, 0, 0, 0, 0])) (fun t => t.h.scr) = some (.holding scrHC1) ∧
    after (exec (.acmd22 0) (registerData [0, 0, 0, 3])) (fun t => t.seq.wrCount) = some 3 ∧
    after (exec (.acmd13 0) (registerData (List.replicate 8 0 ++ [4, 0, 0x90] ++ List.replicate 53 0)))
      (fun t => (speedClass pos t.h.sdStatus.value, t.h.sdStatus.value.extractLsb' 424 8)) = some (4, 0x90) := by decide +kernel

/-- The answers of a data command on the software path over `n` sectors. -/
def softwareData (n : Nat) (ev : EventClass) : State :=
  { mounted 100 with
    env.sts2 := List.replicate (n + 3) 0x2000, env.rsp := [0x900]
    env.events := some .respEnd :: (List.replicate n (some ev) ++ [some .accessEnd])
    card := [(512 * 3 + 7, 0x5A), (512 * 4 + 1, 0x22)], mem := [(0x2001, 0x77)]
    seq.burst := ⟨3, n, 0, 0x1000, false⟩ }

theorem test_cmd17_moves_the_sector :
    after (exec (.cmd17 3) (softwareData 1 .bufReady)) (fun t => (t.mem, t.seq.done)) =
      some ([(0x1007, 0x5A), (0x2001, 0x77)], some .ok) := by decide +kernel
theorem test_cmd18_moves_two_sectors :
    after (exec (.cmd18 3) (softwareData 2 .bufReady)) (fun t => t.mem) =
      some [(0x1007, 0x5A), (0x1201, 0x22), (0x2001, 0x77)] := by decide +kernel
theorem test_cmd24_moves_the_sector :
    after (exec (.cmd24 9) { softwareData 1 .bufEmpty with seq.burst.buf := 0x2000 }) (fun t => t.card.getLast?) =
      some (some (512 * 9 + 1, 0x77)) := by decide +kernel
theorem test_cmd25_on_the_dma_path :
    after (exec (.cmd25 8) { softwareData 2 .bufEmpty with
      seq.burst.buf := 0x1E00, h.xferMode := .dma, env.events := [some .respEnd, some .accessEnd, some .dmaEnd] })
      (fun t => (t.card.getLast?, t.h.dmaState)) = some (some (512 * 9 + 1, 0x77), .done) := by decide +kernel
theorem test_stops :
    exec .standby base = .refused .standbyNotSpecified ∧ exec .active base = .refused .activeNotSpecified ∧
    exec (.lockUnlock 0 0 0) base = .refused .lockUnlockNotSpecified ∧
    exec (.reservedRequest 0) base = .refused (.reservedRequest 0) := ⟨rfl, rfl, rfl, rfl⟩
/-- A request written by the host is what the next step runs; so is a staged frame. -/
theorem test_fetch_word :
    after (step ((mounted 9).withFetchWord 32 6)) (fun t => (t.io.req, t.io.data0)) = some (6, 0x20) ∧
    after (step ((answering 0x80FF8000).withFetchWord 8 0x41)) (fun t => (t.h.ocr, t.seq.done)) =
      some (.holding 0x80FF8000, some .ok) := by decide

/-! ### The engine's steps on small states -/

/-- The engine waits with a phase and, if given, its command's result. -/
def waiting (p : Phase) (r : Option CmdResult) : State :=
  { mounted 62332928 with
    h.phase := p, h.opActive := true, h.clockOn := true, h.csd := .holding csdHC1, h.scr := .holding scrHC1
    h.revision := .r3_00, h.req := some ⟨62332925, 3, 0x20000000, 1536, .read, 0⟩
    seq.done := r, seq.selected := true, seq.burst := ⟨62332925, 3, 0, 0x20000000, true⟩ }

/-- E-6: a burst that reaches the card's end tolerates OUT_OF_RANGE alone at CMD12; one that ends earlier does not. -/
theorem test_last_sector_read :
    after (step { waiting .xStop (some .ok) with h.lastR1 := 0x80000B00, h.blockMode := .multi })
      (fun t => (t.h.phase, t.seq.staged)) = some (.xVerify, some ⟨0x4D, 0xB3680000⟩) ∧
    after (step { waiting .xVerify (some .ok) with h.lastR1 := 0x80000900, h.blockMode := .multi })
      (fun t => (t.h.phase, t.h.req.map (·.done))) = some (.xBurst, some 3) := by decide
/-- E-5: recovery's CMD12 times out, the result stays TimeoutData. -/
theorem test_recovery_returns_first_error :
    after (step { waiting .recovery (some (.failed .timeoutCommand)) with
      h.stickyError := some .timeoutData, seq.saved := some .timeoutData, seq.polled := true })
      (fun t => (t.io.result, t.h.clockOn, t.h.phase)) = some (0x14, false, .idle) := by decide
/-- R402, R403 with CBSY = 0: the entry's calls, and the status poll. -/
theorem test_recovery_entry :
    after (raise .timeoutData { waiting .xMulti (some (.failed .timeoutData)) with
      env.sts2 := [0x2000], log := [], h.dmaState := .residual })
      (fun t => (t.h.dmaState, t.seq.staged, (t.log.map (·.call)).reverse)) = some (.idle, some ⟨0x4D, 0xB3680000⟩,
        [.dmaDisable, .dmaReset, .write .sts1 0, .write .sts2 0, .lockCpu, .mask [], .unlockCpu, .read .sts2]) := by decide
theorem test_locked_card_ends_the_mount :
    after (step { waiting .mSelect (some .ok) with h.lastR1 := 0x02000700, env.regs := [0x80] })
      (fun t => (t.io.result, t.h.mountState, t.h.clockOn)) = some (0x100, .mountedLocked, false) := by decide
theorem test_write_count :
    after (step { waiting .xWrCount (some .ok) with seq.wrCount := 3 }) (fun t => t.h.req.map (·.done)) = some (some 3) ∧
    after (step { waiting .xWrCount (some .ok) with
      seq.wrCount := 2, env.sts2 := [0x2000], h.req := some ⟨9, 0, 0, 0, .write, 0⟩, seq.burst.n := 0 })
      (fun t => t.h.stickyError) = some (some .shortWrite) := by decide
theorem test_callbacks :
    after (step { base with inputs := [some (.callback .cardRemove 0 0)] })
      (fun t => (t.h.cardPresent, t.h.compulsoryStop)) = some (false, true) ∧
    after (step { base with inputs := [some (.callback .cardRemove 1 0)] })
      (fun t => (t.h.cardPresent, t.h.compulsoryStop)) = some (true, false) := by decide
/-- R437: a store beside the running transfer's buffer lands, one inside it makes the buffer a draw. -/
theorem test_host_store :
    after (step { base with inputs := [some (.store 0x1FFFFFFF 7)], h.req := some ⟨0, 1, 0x20000000, 512, .read, 0⟩ })
      (fun t => (t.mem, t.seq.touched)) = some ([(0x1FFFFFFF, 7)], false) ∧
    after (step { base with inputs := [some (.store 0x200001FF 7)], h.req := some ⟨0, 1, 0x20000000, 512, .read, 0⟩ })
      (fun t => t.seq.touched) = some true := by decide

/-- R437: a load in the buffer is a touch too, one beside it is not; R443, R436: what puts a burst in doubt. -/
theorem test_burst_in_doubt :
    after (step { waiting .xVerify none with inputs := [some (.load 0x200005FF)] })
      (fun t => (t.seq.touched, t.seq.doubtful)) = some (true, true) ∧
    after (step { waiting .xVerify none with inputs := [some (.load 0x20000600)] })
      (fun t => (t.seq.touched, t.seq.doubtful)) = some (false, false) ∧
    after (step { waiting .xVerify none with h.xferMode := .dma, inputs := [some (.peerDma true)] })
      (fun t => t.seq.doubtful) = some true ∧
    after (step { waiting .xVerify none with inputs := [some (.power false)] }) (fun t => t.seq.doubtful) = some true ∧
    after (step { waiting .xBurst none with env.cardLost := true }) (fun t => t.seq.doubtful) = some true := by decide
/-- A burst of three sectors that ends in doubt: 1536 bytes are draws. -/
theorem test_doubtful_burst_settles :
    after (step { waiting .xVerify (some .ok) with h.lastR1 := 0x900, h.blockMode := .multi, seq.doubtful := true })
      (fun t => t.env.draws) = some 1536 := by decide
/-- R293, R451: a removal between the check of the stop flag and that of the card is NoCard. -/
theorem test_removal_inside_a_request :
    after (exec (.read 0 1 0x20000000 512) { mounted 1000 with env.during := [[], [.callback .cardRemove 0]] })
      (fun t => (t.io.result, t.h.compulsoryStop, t.log)) = some (0x22, true, (mounted 1000).log) := by decide
/-- R355, R439: a stop accepted while a READ runs that fails its range check leaves RESULT = 0x01 and the flag set; one
accepted before the flag's check is Stopped; one inside a MOUNT without a card leaves RESULT = 0x22. -/
theorem test_stop_inside_a_request :
    after (exec (.read 1000 1 0x20000000 512) { mounted 1000 with env.during := [[], [.stop 1 0 0 0 0]] })
      (fun t => (t.io.result, t.h.compulsoryStop, t.h.opActive, t.io.req)) = some (0x01, true, false, 9) ∧
    after (exec (.read 1000 1 0x20000000 512) { mounted 1000 with env.during := [[.stop 1 0 0 0 0]] })
      (fun t => (t.io.result, t.h.compulsoryStop, t.h.opActive)) = some (0x23, true, false) ∧
    after (exec (.mount true 0x1FF) { base with env.cardDetect := [false], env.during := [[], [.stop 0 0 0 0 0]] })
      (fun t => (t.io.result, t.h.compulsoryStop, t.h.opActive)) = some (0x22, true, false) := by decide
/-- R410: the third BufReady wait of an eight-sector read times out with STS2 = 0x2008: two sectors have been copied. -/
theorem test_failed_read_counts_its_copies :
    after (exec (.cmd18 0) { softwareData 8 .bufReady with
      seq.burst := ⟨0, 8, 0, 0x1000, false⟩, card := [(7, 0x5A), (512 + 1, 0x22), (1024, 0x33)], mem := []
      env.sts2 := [0x2000, 0x2000, 0x2100, 0x2100, 0x2008]
      env.events := [some .respEnd, some .bufReady, some .bufReady, none] })
      (fun t => (t.seq.done, t.seq.copied, t.mem)) =
      some (some (.failed .timeoutData), 2, [(0x1007, 0x5A), (0x1201, 0x22)]) := by decide +kernel
/-- R410, R107: raising that error leaves the two copied sectors in the buffer, and any bytes (here 0xEE) in the third. -/
theorem test_failed_read_keeps_what_it_read :
    after (raise .timeoutData (spoilBurst ⟨0, 3, 0x1000, 1536, .read, 0⟩ { mounted 3 with
      seq.burst := ⟨0, 3, 0, 0x1000, true⟩, seq.copied := 2, mem := [(0x1000, 0x11), (0x13FF, 0x22), (0x1400, 0x33)]
      env.sts2 := [0x2000], env.bytes := List.replicate 1536 0 ++ List.replicate 512 0xEE }))
      (fun t => (t.mem.read 0x1000, t.mem.read 0x13FF, t.mem.read 0x1400, t.mem.read 0x15FF, t.io.result, t.h.mountState)) =
      some (0x11, 0x22, 0xEE, 0xEE, 0x14, .mountedUnlocked) := by decide +kernel
/-- R455, R160: the response wait of a command has its classes enabled and `in_flight` = 1, its command neither. -/
theorem test_hidden_state_of_a_command :
    after (exec (.cmd13 0) { answering 0x900 with log := [] })
      (fun t => (t.log.filter fun e => e.inFlight && e.irqMask ≠ []).map (·.call)) =
      some [.lockCpu, .wait [.respEnd, .cmdError] base.cfg.tCmd] := by decide
/-- R250, R291: sector 8388608 of a standard card of 2^27 sectors has the wire address 0. -/
theorem test_wrapped_address :
    after (exec (.cmd17 0) { softwareData 1 .bufReady with
      h.highCapacity := false, h.cardSectorSize := 134217728, seq.burst.first := 8388608
      card := [(7, 0x5A), (4294967296 + 7, 0x66)] }) (fun t => t.mem) = some [(0x1007, 0x66), (0x2001, 0x77)] := by
  decide +kernel
/-- R432. -/
theorem test_finalize :
    after (step { mounted 9 with inputs := [some .finalize] }) (fun t => (t.finalized, t.h.mountState)) =
      some (true, .unmounted) ∧
    exec .getWp { mounted 9 with finalized := true } = .refused .channelFinalized := ⟨by decide, rfl⟩

/-! ### The hypotheses of the statements can be met -/

/-- The next state of a meaning, where it has one. -/
def nextState (r : Result) : State :=
  match r with
  | .next s => s
  | .fault _ | .refused _ => base

theorem busy_status : busyReady pos.sts2 0x6000 = false := by decide
theorem clean_status : busyReady pos.sts2 0x2000 = true ∧ sts2Error pos.sts2 0x2000 = none := by decide

/-- A ready bus, a clean status after the wait, and nothing listed behind them. -/
def cleanReply : Reply := ⟨[], 0x2000, 0x2000, [], []⟩

/-- One not-ready read before the bus is ready, the most that a limit of two allows. -/
def slowReply : Reply := ⟨[0x6000], 0x2000, 0x2000, [], []⟩

/-- The channel on which `slowReply` stands. -/
def slowly (response : PortWord) : State := { answering response with env.sts2 := [0x6000, 0x2000, 0x2000] }

theorem witness_answers (v : PortWord) : Answers (answering v) cleanReply true :=
  ⟨rfl, show 0 < 2 by decide, by simp [cleanReply], clean_status.1, rfl⟩

theorem witness_accepted (v : PortWord) : Accepted (answering v) cleanReply := ⟨rfl, witness_answers v, clean_status.2⟩

theorem witness_accepted_slowly (v : PortWord) : Accepted (slowly v) slowReply :=
  ⟨rfl, ⟨rfl, show 1 < 2 by decide, by simp only [slowReply, List.mem_singleton, forall_eq]; exact busy_status,
    clean_status.1, rfl⟩, clean_status.2⟩

theorem witness_DecodeEncodeRoundTrip : Indices.reference.wf = true ∧
    ({ Indices.reference with cmd17 := 23, acmd41 := 17 } : Indices).wf = true ∧ (Instr.cmd3Mmc 0x00010000).wf = true ∧
    (Instr.reservedRequest 0).wf = true := by
  decide

theorem witness_DecodedFramesAreKept : decode .reference (.wire true ⟨0b01110011, 0⟩) = .ok (.acmd51 0) := by decide

theorem witness_AcmdToldByAnnouncement :
    decodeAcmd .reference 13 0 = some (.acmd13 0) ∧ decodeAcmd .reference 17 0 = none := by decide

/-- At the spec's positions, and on a layout with CRC and the lock bit exchanged: listed bits apart, a status without one,
and one whose highest listed bit is the lowest row's. -/
theorem witness_HighestR1BitDecides :
    ((r1Table pos.r1).map (·.1)).Nodup ∧ ((r1Table { pos.r1 with cardLocked := 23, crc := 25 }).map (·.1)).Nodup ∧
    0x00000900#32 &&& r1ErrMask pos.r1 = 0#32 ∧ (0xFFFFFFFF#32).getLsbD pos.r1.outOfRange = true ∧
    (0x00000908#32).getLsbD pos.r1.authenticationSequenceError = true ∧
    r1ErrMask pos.r1 &&& 0x00000908#32 = 0x00000008#32 := by decide

theorem witness_HighestSts2BitDecides :
    ((sts2Table pos.sts2).map (·.1)).Nodup ∧ 0x2380#16 &&& 0x807F#16 = 0#16 ∧
    (0xA002#16).getLsbD pos.sts2.illegalAccess = true ∧ (0x2001#16).getLsbD pos.sts2.commandError = true ∧
    0x807F#16 &&& 0x2001#16 = 0x0001#16 := by decide

/-- Both outcomes at their limits: two not-ready reads of at most two, and one before the bus is ready. -/
theorem witness_BusySpinIsBounded :
    ({ base with env.sts2 := [0x6000, 0x0000] } : State).env.sts2 = [0x6000, 0x0000] ++ [] ∧
    (slowly 0).env.sts2 = [0x6000] ++ 0x2000 :: [0x2000] ∧ base.cfg.busySpinLimit = 2 ∧
    (slowly 0).cfg.busySpinLimit = 2 ∧ busyReady pos.sts2 0x6000 = false ∧ busyReady pos.sts2 0x0000 = false ∧
    busyReady pos.sts2 0x2000 = true := by
  decide

/-- A response, and a window that ends without one. -/
theorem witness_IssueSequence : Answers (answering 0) cleanReply true ∧
    Answers { answering 0 with env.events := [none] } cleanReply false :=
  ⟨witness_answers 0, rfl, by decide, by simp [cleanReply], rfl, rfl⟩

theorem witness_OneCommandInFlight :
    isWire (.cmd0 0) = true ∧ ({ base with h.inFlight := true } : State).h.inFlight = true ∧ base.h.inFlight = false ∧
    (answering 0).h.irqMask = [] ∧ exec (.cmd0 0) (answering 0) = .next (nextState (exec (.cmd0 0) (answering 0))) := by
  refine ⟨rfl, rfl, rfl, rfl, rfl⟩

theorem witness_UncheckedCommands : Accepted (slowly 0xB3680500) slowReply ∧ (slowly 0xB3680500).env.rsp = [0xB3680500] :=
  ⟨witness_accepted_slowly _, rfl⟩

theorem witness_OcrCommands : Accepted (answering 0x80FF8000) cleanReply ∧ (answering 0x80FF8000).env.rsp = [0x80FF8000] :=
  ⟨witness_accepted _, rfl⟩

theorem witness_ImageCommands : Accepted { answering 0 with env.rsp := [0x900FF, 0xC003800000000000] } cleanReply ∧
    ({ answering 0 with env.rsp := [0x900FF, 0xC003800000000000] } : State).env.rsp = [0x900FF, 0xC003800000000000] :=
  ⟨⟨rfl, ⟨rfl, by decide, by simp [cleanReply], clean_status.1, rfl⟩, clean_status.2⟩, rfl⟩

/-- A clean status, and a locked card's for CMD7. -/
theorem witness_CheckedCommandsAccepted :
    (Accepted (answering 0x900) cleanReply ∧ r1Error pos.r1 ((0x900 : PortWord).setWidth 32) = none) ∧
    (Accepted (answering 0x02000700) cleanReply ∧
      r1Error pos.r1 ((0x02000700 : PortWord).setWidth 32 &&& ~~~0x02000000#32) = none) :=
  ⟨⟨witness_accepted _, by decide⟩, witness_accepted _, by decide⟩

/-- `issue` failing in each of its ways (busy, an STS2 error, a timeout), and a status with an error bit. -/
theorem witness_CommandFailures :
    (wireIssue (.cmd17 3) = some ((·.cmd17), 3, .r1, .cmd) ∧ isData (.cmd17 3) base = some (.read, 1, 3) ∧
      base.h.inFlight = false ∧
      (issue (·.cmd17) 3 .r1 .cmd { base with env.sts2 := [0x6000, 0x0000] }).1 = some .commandBusy ∧
      (issue (·.cmd17) 3 .r1 .cmd { answering 0 with env.sts2 := [0x2000, 0x2040] }).1 = some .timeoutCommand ∧
      (issue (·.cmd17) 3 .r1 .cmd { answering 0 with env.events := [none] }).1 = some .timeoutHost) ∧
    (Accepted (answering 0x00400900) cleanReply ∧
      r1Error pos.r1 ((0x00400900 : PortWord).setWidth 32) = some .illegalCommand) ∧
    (Accepted (answering 0x02400700) cleanReply ∧
      r1Error pos.r1 ((0x02400700 : PortWord).setWidth 32 &&& ~~~(1#32 <<< pos.r1.cardLocked)) = some .illegalCommand) :=
  ⟨⟨rfl, rfl, rfl, by decide, by decide, by decide⟩, ⟨witness_accepted _, by decide⟩, witness_accepted _, by decide⟩

theorem witness_StatusCommands : Accepted (answering 0x80000B00) cleanReply ∧
    (answering 0x80000B00).env.rsp = [0x80000B00] := ⟨witness_accepted _, rfl⟩

theorem witness_RegisterDataCommands (bytes : List Byte) :
    Accepted (registerData bytes) ⟨[], 0x2000, 0x2000, [0x2000, 0x2000], [some .bufReady, some .accessEnd]⟩ ∧
    (registerData bytes).env.rsp = [0x920] ∧ r1Error pos.r1 ((0x920 : PortWord).setWidth 32) = none ∧
    sts2Error pos.sts2 0x2000 = none ∧ (registerData bytes).env.bytes = bytes ++ [] ∧ (List.replicate 64 (0 : Byte)).length = 64 :=
  ⟨⟨rfl, ⟨rfl, show 0 < 2 by decide, by simp, clean_status.1, rfl⟩, clean_status.2⟩, rfl, by decide, by decide, by simp [registerData], rfl⟩

/-- One sector and two, on either direction. -/
theorem witness_software_data (ev : EventClass) :
    (Accepted (softwareData 1 ev) ⟨[], 0x2000, 0x2000, [0x2000] ++ [0x2000],
        List.replicate 1 (some ev) ++ [some .accessEnd]⟩ ∧
      (softwareData 1 ev).h.xferMode = .sw ∧ (softwareData 1 ev).env.rsp = [0x900]) ∧
    (Accepted (softwareData 2 ev) ⟨[], 0x2000, 0x2000, [0x2000, 0x2000] ++ [0x2000],
        List.replicate 2 (some ev) ++ [some .accessEnd]⟩ ∧
      (softwareData 2 ev).seq.burst.n = 2) ∧
    r1Error pos.r1 ((0x900 : PortWord).setWidth 32) = none ∧ sts2Error pos.sts2 0x2000 = none :=
  ⟨⟨⟨rfl, ⟨rfl, show 0 < 2 by decide, by simp, clean_status.1, rfl⟩, clean_status.2⟩, rfl, rfl⟩,
    ⟨⟨rfl, ⟨rfl, show 0 < 2 by decide, by simp, clean_status.1, rfl⟩, clean_status.2⟩, rfl⟩, by decide, by decide⟩

theorem witness_SoftwareTransfers :
    (isData (.cmd18 3) (softwareData 2 .bufReady) = some (.read, 2, 3) ∧
      Accepted (softwareData 2 .bufReady) ⟨[], 0x2000, 0x2000, [0x2000, 0x2000] ++ [0x2000],
        List.replicate 2 (some .bufReady) ++ [some .accessEnd]⟩) ∧
    isData (.cmd25 3) (softwareData 2 .bufEmpty) = some (.write, 2, 3) ∧
    Accepted (softwareData 2 .bufEmpty) ⟨[], 0x2000, 0x2000, [0x2000, 0x2000] ++ [0x2000],
      List.replicate 2 (some .bufEmpty) ++ [some .accessEnd]⟩ :=
  ⟨⟨rfl, (witness_software_data _).2.1.1⟩, rfl, (witness_software_data _).2.1.1⟩

/-- A DMA transfer of `n` sectors whose response, access end and DMA end are listed. -/
def dmaData (n : Nat) (dma : DmaState) (access dmaEnd : Option EventClass) (status : Sts2) : State :=
  { softwareData n .bufReady with
    h.xferMode := .dma, h.dmaState := dma, env.events := [some .respEnd, access, dmaEnd]
    env.sts2 := [0x2000, 0x2000, status] }

theorem witness_dma_accepted (n : Nat) (dma : DmaState) (access dmaEnd : Option EventClass) (status : Sts2) :
    Accepted (dmaData n dma access dmaEnd status) ⟨[], 0x2000, 0x2000, [status], [access, dmaEnd]⟩ :=
  ⟨rfl, ⟨rfl, show 0 < 2 by decide, by simp, clean_status.1, rfl⟩, clean_status.2⟩

theorem witness_DmaTransfers :
    isData (.cmd25 3) (dmaData 2 .done (some .accessEnd) (some .dmaEnd) 0x2000) = some (.write, 2, 3) ∧
    isData (.cmd17 3) (dmaData 1 .idle (some .accessEnd) (some .dmaEnd) 0x2000) = some (.read, 1, 3) ∧
    sts2Error pos.sts2 0x2000 = none ∧
    Accepted (dmaData 2 .done (some .accessEnd) (some .dmaEnd) 0x2000)
      ⟨[], 0x2000, 0x2000, [0x2000], [some .accessEnd, some .dmaEnd]⟩ :=
  ⟨rfl, rfl, by decide, witness_dma_accepted _ _ _ _ _⟩

/-- A command whose response is clean, with the statuses and the events of its data phase. -/
def dataPhaseOf (s : State) (statuses : List Sts2) (events : List (Option EventClass)) : State :=
  { s with env.sts2 := 0x2000 :: 0x2000 :: statuses, env.events := some .respEnd :: events }

theorem witness_data_phase {s : State} {statuses : List Sts2} {events : List (Option EventClass)}
    (idle : s.h.inFlight = false) (limit : 0 < s.cfg.busySpinLimit) (layout : s.cfg.pos = pos) :
    Accepted (dataPhaseOf s statuses events) ⟨[], 0x2000, 0x2000, statuses, events⟩ := by
  have clean := clean_status
  rw [← layout] at clean
  exact ⟨idle, ⟨rfl, limit, by simp, clean.1, rfl⟩, clean.2⟩

/-- DMA: the blocked engine, a failing access end, one that times out, a DMA end that times out. -/
theorem witness_DataPhaseFailures_dma :
    (dmaData 1 .armed none none 0x2000).h.dmaState = .armed ∧
    (dmaData 1 .residual none none 0x2000).h.dmaState = .residual ∧
    awaitEvent [.accessEnd, .dataError] [some .dataError, none] = some (true, [none]) ∧
    sts2Error pos.sts2 0x2008 = some .timeoutData ∧ awaitEvent [.accessEnd, .dataError] [none, none] = some (false, [none]) ∧
    awaitEvent [.accessEnd, .dataError] [some .accessEnd, none] = some (true, [none]) ∧
    awaitEvent [.dmaEnd] [none] = some (false, []) ∧
    Accepted (dmaData 1 .idle (some .dataError) none 0x2008) ⟨[], 0x2000, 0x2000, [0x2008], [some .dataError, none]⟩ ∧
    r1Error pos.r1 ((0x900 : PortWord).setWidth 32) = none :=
  ⟨rfl, rfl, rfl, by decide, rfl, rfl, rfl, witness_dma_accepted _ _ _ _ _, by decide⟩

/-- Software path of two sectors: the first wait fails, the second, the access end, with an STS2 error and by timing out;
register data: either wait. -/
theorem witness_DataPhaseFailures :
    Accepted (dataPhaseOf (softwareData 2 .bufReady) ([] ++ [0x2008]) [some .dataError])
      ⟨[], 0x2000, 0x2000, [] ++ [0x2008], [some .dataError]⟩ ∧
    Accepted (dataPhaseOf (softwareData 2 .bufReady) ([0x2000] ++ [0x2000]) [some .bufReady, none])
      ⟨[], 0x2000, 0x2000, [0x2000] ++ [0x2000], List.replicate 1 (some .bufReady) ++ [none]⟩ ∧
    Accepted (dataPhaseOf (softwareData 2 .bufReady) ([0x2000, 0x2000] ++ [0x2002])
        [some .bufReady, some .bufReady, some .accessEnd])
      ⟨[], 0x2000, 0x2000, [0x2000, 0x2000] ++ [0x2002], List.replicate 2 (some .bufReady) ++ [some .accessEnd]⟩ ∧
    Accepted (dataPhaseOf (registerData [0, 0, 0, 3]) [0x2001] [some .bufReady])
      ⟨[], 0x2000, 0x2000, [0x2001], [some .bufReady]⟩ ∧
    Accepted (dataPhaseOf (registerData [0, 0, 0, 3]) [0x2000, 0x2000] [some .bufReady, none])
      ⟨[], 0x2000, 0x2000, [0x2000, 0x2000], [some .bufReady, none]⟩ ∧
    isData (.cmd18 3) (softwareData 2 .bufReady) = some (.read, 2, 3) ∧ (softwareData 2 .bufReady).h.xferMode = .sw ∧
    awaitEvent [.bufReady, .dataError] [some .dataError] = some (true, []) ∧
    awaitEvent [.bufReady, .dataError] [none] = some (false, []) ∧
    awaitEvent [.accessEnd, .dataError] [none] = some (false, []) ∧
    (sts2Error pos.sts2 0x2008, sts2Error pos.sts2 0x2002, sts2Error pos.sts2 0x2001) =
      (some .timeoutData, some .hostCrcError, some .hostCommandError) :=
  ⟨witness_data_phase rfl (by decide) rfl, witness_data_phase rfl (by decide) rfl, witness_data_phase rfl (by decide) rfl,
    witness_data_phase rfl (by decide) rfl, witness_data_phase rfl (by decide) rfl, rfl, rfl, rfl, rfl, rfl, by decide⟩

theorem witness_RegisterCommandFrame : isWire (.acmd22 0) = true ∧ isData (.acmd22 0) (registerData [0, 0, 0, 3]) = none ∧
    exec (.acmd22 0) (registerData [0, 0, 0, 3]) = .next (nextState (exec (.acmd22 0) (registerData [0, 0, 0, 3]))) :=
  ⟨rfl, rfl, rfl⟩

theorem witness_DataCommandFrame :
    isData (.cmd17 3) (softwareData 1 .bufReady) = some (.read, 1, 3) ∧
    isData (.cmd25 3) (softwareData 2 .bufEmpty) = some (.write, 2, 3) ∧
    exec (.cmd17 3) (softwareData 1 .bufReady) = .next (nextState (exec (.cmd17 3) (softwareData 1 .bufReady))) ∧
    exec (.cmd25 3) (softwareData 2 .bufEmpty) = .next (nextState (exec (.cmd25 3) (softwareData 2 .bufEmpty))) :=
  ⟨rfl, rfl, rfl, rfl⟩

/-- A write of sector 9 on the software path, and the channel that reads it back on the DMA path. -/
def written : State := nextState (exec (.cmd24 9) { softwareData 1 .bufEmpty with seq.burst.buf := 0x2000 })
def readingBack : State := { dmaData 1 .idle (some .accessEnd) (some .dmaEnd) 0x2000 with card := written.card }

theorem witness_ReadAfterWrite :
    exec (.cmd24 9) { softwareData 1 .bufEmpty with seq.burst.buf := 0x2000 } = .next written ∧
    written.seq.done = some .ok ∧ readingBack.card = written.card ∧
    exec (.cmd17 9) readingBack = .next (nextState (exec (.cmd17 9) readingBack)) ∧
    (nextState (exec (.cmd17 9) readingBack)).seq.done = some .ok ∧
    readingBack.h.cardSectorSize = (softwareData 1 .bufEmpty).h.cardSectorSize ∧
    dataSector readingBack 9 = dataSector (softwareData 1 .bufEmpty) 9 ∧
    dataSector (softwareData 1 .bufEmpty) 9 < (softwareData 1 .bufEmpty).h.cardSectorSize :=
  ⟨rfl, by decide +kernel, rfl, rfl, by decide +kernel, rfl, by decide, by decide⟩

/-- A burst of a read and of a write, in doubt and not; one inside the card with its bytes listed. -/
theorem witness_BurstDamageIsBounded :
    (waiting .xVerify none).mem.wf = true ∧ (waiting .xVerify none).card.wf = true ∧
    (waiting .xVerify none).seq.doubtful = false ∧ ({ waiting .xMulti none with seq.copied := 2 } : State).seq.copied = 2 ∧
    (waiting .xVerify none).h.req.map (·.dir) = some .read ∧
    (⟨0, 3, 0, 1536, .write, 0⟩ : TransferRequest).dir = .write ∧
    (waiting .xVerify none).seq.burst.first + 3 ≤ (waiting .xVerify none).h.cardSectorSize ∧
    (List.replicate 1536 (0 : Byte)).length = 512 * (waiting .xVerify none).seq.burst.n := by
  refine ⟨rfl, rfl, rfl, rfl, rfl, rfl, by decide, by rw [List.length_replicate]; rfl⟩

theorem witness_OverlappingRequestsRefused :
    (waiting .xBurst none).h.opActive = true ∧ (waiting .xBurst none).finalized = false ∧
    decode .reference (.request ⟨7, 0, 0, 0, 0, 0⟩) = .ok .getWp ∧ Instr.getWp ≠ .requestStop ∧
    ({ mounted 9 with finalized := true } : State).finalized = true := by decide

theorem witness_free : Free base ∧ Free (mounted 1000) := ⟨⟨rfl, rfl⟩, ⟨rfl, rfl⟩⟩

/-- No detection, a card detected, no card; no callback inside. -/
theorem witness_MountEntry :
    (Free { base with cfg.cardDetectSupported := false, env.regs := [0] } ∧
      ({ base with cfg.cardDetectSupported := false, env.regs := [0] } : State).cfg.cardDetectSupported = false) ∧
    (Free { base with env.regs := [0], env.cardDetect := [true] } ∧ base.cfg.cardDetectSupported = true) ∧
    Free { base with env.cardDetect := [false] } ∧ base.env.during = [] :=
  ⟨⟨⟨rfl, rfl⟩, rfl⟩, ⟨⟨rfl, rfl⟩, rfl⟩, ⟨rfl, rfl⟩, rfl⟩

theorem witness_UnmountResets : Free (mounted 9) ∧ (mounted 9).env.during = [] := ⟨⟨rfl, rfl⟩, rfl⟩

theorem witness_GettersAnswer : Free (mounted 4294967296) ∧ (mounted 4294967296).env.during = [] := ⟨⟨rfl, rfl⟩, rfl⟩

theorem witness_PresenceAndStop :
    (base.finalized = false ∧ base.env.during = [] ∧ base.h.opActive = false ∧ base.cfg.cardDetectSupported = true) ∧
    (waiting .xBurst none).finalized = false ∧ (waiting .xBurst none).h.opActive = true := by decide

/-- Each precondition, the range at its limits: the last sector in, one past it out, no sector at the end out. -/
theorem witness_TransferPreconditions :
    (Free base ∧ base.h.mountState = .unmounted ∧ 512 * (1#32).toNat ≤ (512#32).toNat) ∧
    (Free { mounted 1000 with h.mountState := .mountedLocked } ∧ Free { mounted 1000 with h.compulsoryStop := true } ∧
      Free { mounted 1000 with h.cardPresent := false } ∧ Free { mounted 1000 with h.writeProtectFlags := 2 }) ∧
    ((mounted 1000).h.mountState = .mountedUnlocked ∧ (mounted 1000).h.cardPresent = true ∧
      (mounted 1000).h.compulsoryStop = false ∧ (mounted 1000).env.during = []) ∧
    (1000 ≤ (1000#32).toNat ∧ 1000 < (999#32).toNat + (2#32).toNat ∧
      ¬ (1000 ≤ (999#32).toNat ∨ 1000 < (999#32).toNat + (1#32).toNat)) :=
  ⟨⟨⟨rfl, rfl⟩, rfl, by decide⟩, ⟨⟨rfl, rfl⟩, ⟨rfl, rfl⟩, ⟨rfl, rfl⟩, ⟨rfl, rfl⟩⟩, ⟨rfl, rfl, rfl, rfl⟩, by decide⟩

/-- A transfer up to the card's last sector with a buffer up to the last address, one of no sectors, and a buffer one
sector too far. -/
theorem witness_TransferStarts :
    Free { mounted 1000 with env.regs := [0] } ∧ (mounted 1000).h.writeProtectFlags = 0 ∧ (mounted 1000).env.during = [] ∧
    (mounted 1000).h.compulsoryStop = false ∧ (mounted 1000).h.cardPresent = true ∧
    (998#32).toNat < 1000 ∧ (998#32).toNat + (2#32).toNat ≤ 1000 ∧ (2#32) ≠ 0 ∧
    512 * (2#32).toNat ≤ (1024#32).toNat ∧
    (0xFFFFFFFFFFFFFC00#64).toNat % 2 ^ (mounted 1000).cfg.bufAddrBits + 512 * (2#32).toNat ≤
      2 ^ (mounted 1000).cfg.bufAddrBits ∧
    2 ^ (mounted 1000).cfg.bufAddrBits <
      (0xFFFFFFFFFFFFFE00#64).toNat % 2 ^ (mounted 1000).cfg.bufAddrBits + 512 * (2#32).toNat :=
  ⟨⟨rfl, rfl⟩, rfl, rfl, rfl, by decide, by decide, by decide, by decide, by decide, by decide, by decide⟩

theorem witness_ShortBufferRefused : Free base ∧ (511#32).toNat < 512 * (1#32).toNat := ⟨⟨rfl, rfl⟩, by decide⟩

/-- A phase whose command has completed, with any result. -/
theorem witness_after (p : Phase) (r : CmdResult) : After (waiting p (some r)) p r :=
  ⟨show configured base = true by decide, rfl, rfl, rfl, rfl⟩

theorem witness_alone (p : Phase) : Alone (waiting p none) p :=
  ⟨show configured base = true by decide, rfl, rfl, rfl, rfl⟩

/-- The last attempt, and one before it; an accepted CMD0 on each of its three ways on. -/
theorem witness_ResetAttempts :
    (After (waiting .mReset (some .ok)) .mReset .ok ∧ (waiting .mReset none).seq.resume = .toIfCond ∧
      (waiting .mReset none).h.rca = .holding 0xB368 ∧
      After { waiting .mReset (some .ok) with seq.hostV2 := true } .mReset .ok ∧
      After { waiting .mReset (some .ok) with seq.resume := .toOcrSd } .mReset .ok ∧
      After { waiting .mReset (some .ok) with seq.resume := .toOcrMmc } .mReset .ok) ∧
    After { waiting .mReset (some (.failed .timeoutHost)) with seq.left := 1 } .mReset (.failed .timeoutHost) ∧
    After { waiting .mReset (some (.failed .timeoutHost)) with seq.left := 2 } .mReset (.failed .timeoutHost) :=
  ⟨⟨witness_after _ _, rfl, rfl, ⟨by decide, rfl, rfl, rfl, rfl⟩, ⟨by decide, rfl, rfl, rfl, rfl⟩,
    ⟨by decide, rfl, rfl, rfl, rfl⟩⟩, ⟨by decide, rfl, rfl, rfl, rfl⟩, ⟨by decide, rfl, rfl, rfl, rfl⟩⟩

/-- The vectors of R227 and R228. -/
theorem witness_InterfaceConditionChecked :
    After (waiting .mIfCond (some (.failed .timeoutCommand))) .mIfCond (.failed .timeoutCommand) ∧
    After { waiting .mIfCond (some .ok) with h.ifCond := .holding 0x000001AA } .mIfCond .ok ∧
    (0x000001AA#32).extractLsb' pos.r7Echo 8 = base.cfg.ifPattern ∧ (0x000001AA#32).extractLsb' pos.r7Voltage 4 = base.cfg.ifVhs ∧
    (0x000001AB#32).extractLsb' pos.r7Echo 8 ≠ base.cfg.ifPattern ∧ (0x000002AA#32).extractLsb' pos.r7Voltage 4 ≠ base.cfg.ifVhs ∧
    (waiting .mIfCond (some .ok)).h.rca = .holding 0xB368 :=
  ⟨witness_after _ _, ⟨by decide, rfl, rfl, rfl, rfl⟩, by decide, by decide, by decide, by decide, rfl⟩

theorem witness_OperatingConditionProbes :
    After (waiting .mOcrSd (some (.failed .timeoutHost))) .mOcrSd (.failed .timeoutHost) ∧
    After { waiting .mOcrSd (some .ok) with seq.app := true } .mOcrSd .ok ∧
    After { waiting .mOcrSd (some .ok) with h.ocr := .holding 0xC0FF8000, seq.left := 1 } .mOcrSd .ok ∧
    After { waiting .mOcrMmc (some .ok) with h.ocr := .holding 0x00FF8000, seq.left := 2 } .mOcrMmc .ok ∧
    (0xC0FF8000#32).getLsbD pos.ocrReady = true ∧ (0x00FF8000#32).getLsbD pos.ocrReady = false :=
  ⟨witness_after _ _, ⟨by decide, rfl, rfl, rfl, rfl⟩, ⟨by decide, rfl, rfl, rfl, rfl⟩,
    ⟨by decide, rfl, rfl, rfl, rfl⟩, by decide, by decide⟩

theorem witness_ZeroAddressRetried :
    (After (waiting .mCid (some (.failed .timeoutHost))) .mCid (.failed .timeoutHost) ∧
      After (waiting .mSdStatus (some (.failed .timeoutHost))) .mSdStatus (.failed .timeoutHost)) ∧
    (After (waiting .mCid (some .ok)) .mCid .ok ∧
      After { waiting .mCid (some .ok) with h.mediaKind := .mmc } .mCid .ok) ∧
    After { waiting .mRca (some .ok) with h.rca := .holding 0, seq.left := 2 } .mRca .ok ∧
    After { waiting .mRca (some .ok) with h.rca := .holding 0, seq.left := 1 } .mRca .ok ∧
    (waiting .mRca (some .ok)).h.mediaKind ≠ .mmc ∧ (0xB368#16) ≠ 0 :=
  ⟨⟨witness_after _ _, witness_after _ _⟩, ⟨witness_after _ _, ⟨by decide, rfl, rfl, rfl, rfl⟩⟩,
    ⟨by decide, rfl, rfl, rfl, rfl⟩, ⟨by decide, rfl, rfl, rfl, rfl⟩, by decide, by decide⟩

/-- A CSD without and with a DSR, each media kind; the SCR's revisions. -/
theorem witness_RevisionFromScr :
    (After (waiting .mCsd (some .ok)) .mCsd .ok ∧ (waiting .mCsd none).h.csd = .holding csdHC1 ∧ csdHC1.getLsbD pos.dsrImp = false ∧
      (csdHC1 ||| 1#128 <<< 76).getLsbD pos.dsrImp = true ∧ After (waiting .mDsr (some .ok)) .mDsr .ok ∧
      After { waiting .mDsr (some .ok) with h.mediaKind := .mmc } .mDsr .ok ∧
      After { waiting .mScr (some .ok) with seq.app := true } .mScr .ok ∧ (waiting .mScr none).h.rca = .holding 0xB368) ∧
    After (waiting .mScr (some .ok)) .mScr .ok ∧ (waiting .mScr (some .ok)).seq.app = false ∧
    (waiting .mScr (some .ok)).h.scr = .holding scrHC1 ∧ scrHC1.extractLsb' pos.sdSpec 4 = 2 ∧ scrHC1.getLsbD pos.sdSpec3 = true ∧
    3#4 ≤ (0x0300000000000000#64).extractLsb' pos.sdSpec 4 :=
  ⟨⟨witness_after _ _, rfl, by decide, by decide, witness_after _ _, ⟨by decide, rfl, rfl, rfl, rfl⟩,
    ⟨by decide, rfl, rfl, rfl, rfl⟩, rfl⟩, witness_after _ _, rfl, rfl, by decide, by decide, by decide⟩

theorem witness_GeometryFromCsd :
    Alone (waiting .mGeometry none) .mGeometry ∧
    (waiting .mGeometry none).h.csd = .holding csdHC1 ∧
    (csdHC1.extractLsb' pos.csdStructure 2).toNat = 1 ∧ (csdE1.extractLsb' pos.csdStructure 2).toNat = 0 ∧
    (csdMMC1.extractLsb' pos.csdStructure 2).toNat = 2 ∧
    Alone { waiting .mGeometry none with
      h.csd := .holding csdMMC1, h.mediaKind := .mmc, env.rom := [false], env.writeProtect := [true] } .mGeometry ∧
    Alone { waiting .mGeometry none with h.revision := .r1_10 } .mGeometry :=
  ⟨witness_alone _, rfl, by decide, by decide, by decide, ⟨by decide, rfl, rfl, rfl, rfl⟩,
    ⟨by decide, rfl, rfl, rfl, rfl⟩⟩

theorem witness_SelectOutcome :
    After { waiting .mSelect (some .ok) with h.lastR1 := 0x02000700, env.regs := [0] } .mSelect .ok ∧
    After { waiting .mSelect (some .ok) with h.lastR1 := 0x00000700, env.regs := [0] } .mSelect .ok ∧
    (waiting .mSelect (some .ok)).h.stickyError = none ∧ (0x02000700#32).getLsbD pos.r1.cardLocked = true ∧
    (0x00000700#32).getLsbD pos.r1.cardLocked = false :=
  ⟨⟨by decide, rfl, rfl, rfl, rfl⟩, ⟨by decide, rfl, rfl, rfl, rfl⟩, rfl, by decide, by decide⟩

theorem witness_BusWidthNegotiated :
    (After (waiting .mBlockLen (some .ok)) .mBlockLen .ok ∧ (waiting .mBlockLen (some .ok)).h.rca = .holding 0xB368 ∧
      base.cfg.host4Bit = true ∧ scrHC1.getLsbD pos.fourBitBus = true ∧ (0x0201000000000000#64).getLsbD pos.fourBitBus = false ∧
      After { waiting .mBlockLen (some .ok) with h.mediaKind := .mmc, h.csd := .holding csdMMC1 } .mBlockLen .ok) ∧
    After { waiting .mBusWidth (some .ok) with seq.app := true } .mBusWidth .ok ∧
    (After (waiting .mBusWidth (some .ok)) .mBusWidth .ok ∧ (waiting .mBusWidth none).seq.app = false) ∧
    After { waiting .mClrStatus (some .ok) with seq.app := true } .mClrStatus .ok ∧
    After (waiting .mClrStatus (some .ok)) .mClrStatus .ok :=
  ⟨⟨witness_after _ _, rfl, rfl, by decide, by decide, ⟨by decide, rfl, rfl, rfl, rfl⟩⟩,
    ⟨by decide, rfl, rfl, rfl, rfl⟩, ⟨witness_after _ _, rfl⟩, ⟨by decide, rfl, rfl, rfl, rfl⟩,
    witness_after _ _⟩

theorem witness_SdStatusFields :
    After { waiting .mSdStatus (some .ok) with seq.app := true } .mSdStatus .ok ∧
    After { waiting .mSdStatus (some .ok) with h.sdStatus := .holding 0 } .mSdStatus .ok ∧
    (waiting .mSdStatus (some .ok)).seq.app = false ∧ (waiting .mSdStatus (some .ok)).h.csd = .holding csdHC1 :=
  ⟨⟨by decide, rfl, rfl, rfl, rfl⟩, ⟨by decide, rfl, rfl, rfl, rfl⟩, rfl, rfl⟩

theorem witness_OperationsReturnOk :
    Alone (waiting .mDone none) .mDone ∧ Alone (waiting .xDone none) .xDone ∧
    (waiting .xDone none).h.stickyError = none := ⟨witness_alone _, witness_alone _, rfl⟩

/-- No sector left, a pending stop, a two-sector burst, a three-sector burst that ends at the card's last sector. -/
theorem witness_BurstBoundary :
    Alone { waiting .xBurst none with h.req := some ⟨0, 3, 0, 1536, .read, 3⟩ } .xBurst ∧
    Alone { waiting .xBurst none with h.compulsoryStop := true } .xBurst ∧
    Alone { waiting .xBurst none with h.req := some ⟨0, 3, 0, 1536, .read, 1⟩ } .xBurst ∧
    Alone (waiting .xBurst none) .xBurst ∧
    min (3 - 1) (waiting .xBurst none).h.transferChunkLimit = 2 ∧
    min (3 - 0) (waiting .xBurst none).h.transferChunkLimit = 3 ∧
    62332925 + 3 = (waiting .xBurst none).h.cardSectorSize :=
  ⟨⟨by decide, rfl, rfl, rfl, rfl⟩, ⟨by decide, rfl, rfl, rfl, rfl⟩, ⟨by decide, rfl, rfl, rfl, rfl⟩,
    witness_alone _, by decide, by decide, by decide⟩

/-- The statuses of `95_test_vectors.md` 2.4, each on the phase of its command. -/
theorem witness_LastSectorTolerance :
    After { waiting .xStop (some .ok) with h.lastR1 := 0x80000B00 } .xStop .ok ∧
    (waiting .xStop (some .ok)).seq.aborting = false ∧ (waiting .xStop (some .ok)).seq.burst.last = true ∧
    0x80000B00#32 &&& r1ErrMask pos.r1 = 1#32 <<< pos.r1.outOfRange ∧
    After { waiting .xStop (some .ok) with h.lastR1 := 0x80000B00, seq.burst.last := false } .xStop .ok ∧
    r1Error pos.r1 0x80000B00 = some .outOfRange ∧
    After { waiting .xVerify (some .ok) with h.lastR1 := 0x00000B00 } .xVerify .ok ∧
    (0x00000B00#32).extractLsb' pos.r1.currentState 4 ≠ 4#4 ∧ r1Error pos.r1 0x00000B00 = none ∧
    After { waiting .xVerify (some .ok) with h.lastR1 := 0x80000900, h.blockMode := .single } .xVerify .ok ∧
    After { waiting .xVerify (some .ok) with h.lastR1 := 0x00000900, h.blockMode := .multi } .xVerify .ok ∧
    After { waiting .xVerify (some .ok) with
      h.lastR1 := 0x00000900, h.blockMode := .multi, h.req := some ⟨0, 3, 0, 1536, .write, 0⟩ } .xVerify .ok ∧
    (0x00000900#32).extractLsb' pos.r1.currentState 4 = 4#4 :=
  ⟨⟨by decide, rfl, rfl, rfl, rfl⟩, rfl, rfl, by decide, ⟨by decide, rfl, rfl, rfl, rfl⟩, by decide,
    ⟨by decide, rfl, rfl, rfl, rfl⟩, by decide, by decide, ⟨by decide, rfl, rfl, rfl, rfl⟩,
    ⟨by decide, rfl, rfl, rfl, rfl⟩, ⟨by decide, rfl, rfl, rfl, rfl⟩, by decide⟩

theorem witness_BurstCommandsFollowed :
    After (waiting .xMulti (some (.failed .timeoutData))) .xMulti (.failed .timeoutData) ∧
    After { waiting .xStop (some .ok) with seq.aborting := true } .xStop .ok ∧
    After (waiting .xSingle (some .ok)) .xSingle .ok ∧
    After { waiting .xMulti (some .ok) with h.mediaKind := .mmc } .xMulti .ok ∧
    (waiting .xMulti (some .ok)).seq.burst.last = true ∧ (waiting .xMulti (some .ok)).h.mediaKind ≠ .mmc :=
  ⟨witness_after _ _, ⟨by decide, rfl, rfl, rfl, rfl⟩, witness_after _ _, ⟨by decide, rfl, rfl, rfl, rfl⟩, rfl,
    by decide⟩

/-- The accepted CMD55, then ACMD22 counted 2, and 3, of a burst of 3. -/
theorem witness_WrittenBlockCount :
    After { waiting .xWrCount (some .ok) with seq.app := true } .xWrCount .ok ∧
    After { waiting .xWrCount (some .ok) with seq.wrCount := 2 } .xWrCount .ok ∧
    After { waiting .xWrCount (some .ok) with seq.wrCount := 3 } .xWrCount .ok ∧
    (waiting .xWrCount (some .ok)).seq.burst.n = 3 ∧ (waiting .xWrCount (some .ok)).seq.app = false :=
  ⟨⟨by decide, rfl, rfl, rfl, rfl⟩, ⟨by decide, rfl, rfl, rfl, rfl⟩, ⟨by decide, rfl, rfl, rfl, rfl⟩, rfl, rfl⟩

theorem witness_RecoveryEntry :
    (waiting .xMulti none).seq.selected = true ∧ (waiting .xMulti none).h.rca = .holding 0xB368 ∧
    base.seq.selected = false := by decide

/-- CBSY clear, CBSY set until the second read of two, CBSY set on both. -/
theorem witness_RecoveryPortCalls :
    ({ base with env.sts2 := [0x2000] } : State).env.sts2 = 0x2000 :: [] ∧ (0x2000#16).getLsbD pos.sts2.commandBusy = false ∧
    (0x6000#16).getLsbD pos.sts2.commandBusy = true ∧
    ({ base with env.sts2 := [0x6000, 0x6000, 0x2000], env.regs := [1, 2] } : State).env.sts2 =
      0x6000 :: ([0x6000] ++ 0x2000 :: []) ∧
    ({ base with env.sts2 := [0x6000, 0x6000, 0x6000], env.regs := [1, 2] } : State).env.sts2 =
      0x6000 :: ([0x6000, 0x6000] ++ []) ∧ base.cfg.busySpinLimit = 2 := by decide

/-- A card in Transfer state, one in Data state, a failed poll, and the CMD12 behind it. -/
theorem witness_RecoveryReturn :
    After { waiting .recovery (some .ok) with seq.saved := some .timeoutData, h.lastR1 := 0x900 } .recovery .ok ∧
    After { waiting .recovery (some .ok) with seq.saved := some .timeoutData, h.lastR1 := 0xB00 } .recovery .ok ∧
    After { waiting .recovery (some (.failed .timeoutHost)) with seq.saved := some .timeoutData } .recovery
      (.failed .timeoutHost) ∧
    After { waiting .recovery (some .ok) with seq.saved := some .timeoutData, seq.polled := true } .recovery .ok ∧
    (0x900#32).extractLsb' pos.r1.currentState 4 = 4#4 ∧ (0xB00#32).extractLsb' pos.r1.currentState 4 ≠ 4#4 :=
  ⟨⟨by decide, rfl, rfl, rfl, rfl⟩, ⟨by decide, rfl, rfl, rfl, rfl⟩, ⟨by decide, rfl, rfl, rfl, rfl⟩,
    ⟨by decide, rfl, rfl, rfl, rfl⟩, by decide, by decide⟩

/-- A sound state inside recovery: a mounted channel whose transfer failed, its CMD12 answered. -/
def recovering : State :=
  { mounted 1000 with
    h.phase := .recovery, h.opActive := true, h.clockOn := true, h.stickyError := some .timeoutData
    h.req := some ⟨0, 1, 0, 512, .read, 0⟩
    seq.done := some .ok, seq.selected := true, seq.saved := some .timeoutData, seq.polled := true }

theorem witness_recovering_sound : Inv recovering where
  maskEmpty := rfl
  nothingInFlight := rfl
  bufferWf := rfl
  cardWf := rfl
  busyIff := by decide
  phaseStays := by decide
  idleClean := by decide
  clockRuns := by decide
  commandOrResult := by decide
  stagedFits := nofun
  images := trivial
  addressed := fun _ => rfl
  mountUnmounted := nofun
  transferMounted := nofun
  dmaQuiet := ⟨by decide, nofun⟩
  dmaOwned := fun _ => rfl
  recoverySaved := fun _ => ⟨rfl, rfl⟩
  noErrorYet := by decide
  abortingStops := nofun

theorem witness_FirstErrorIsTheResult :
    Inv recovering ∧ recovering.h.opActive = true ∧ recovering.h.stickyError = some .timeoutData ∧
    step recovering = .next (nextState (step recovering)) ∧ (nextState (step recovering)).h.opActive = false :=
  ⟨witness_recovering_sound, rfl, rfl, rfl, rfl⟩

/-- A host that unmounts, and a mount that ends. -/
theorem witness_MountStateWriters :
    step { mounted 9 with inputs := [some (.request ⟨2, 0, 0, 0, 0, 0⟩)] } =
      .next (nextState (step { mounted 9 with inputs := [some (.request ⟨2, 0, 0, 0, 0, 0⟩)] })) ∧
    (nextState (step { mounted 9 with inputs := [some (.request ⟨2, 0, 0, 0, 0, 0⟩)] })).h.mountState ≠
      (mounted 9).h.mountState := ⟨rfl, by decide⟩

theorem witness_StopFlagAndParameters :
    step { mounted 9 with h.compulsoryStop := true, inputs := [some .driverInit], env.cardDetect := [true] } =
      .next (nextState (step { mounted 9 with
        h.compulsoryStop := true, inputs := [some .driverInit], env.cardDetect := [true] })) ∧
    (nextState (step { mounted 9 with
        h.compulsoryStop := true, inputs := [some .driverInit], env.cardDetect := [true] })).h.compulsoryStop = false ∧
    (nextState (step { mounted 9 with
        h.transferChunkLimit := 3, inputs := [some .driverInit], env.cardDetect := [true] })).h.transferChunkLimit ≠ 3 :=
  ⟨rfl, by decide, by decide⟩

/-- A callback of each kind, a stop before a wire command, acts at a request's acceptance and at its second point, with a
range check that fails and a card that is not there. -/
theorem witness_CardDetectCallbacks :
    (configured { base with inputs := [some (.callback .cardRemove 0 0)] } = true ∧ base.cfg.channel = 0 ∧
      base.cfg.nChannels ≤ 1 ∧ base.cfg.cardDetectSupported = true ∧ EventClass.dmaEnd ≠ .cardInsert) ∧
    (isWire (.cmd0 0) = true ∧
      exec (.cmd0 0) (answering 0) = .next (nextState (exec (.cmd0 0) (answering 0)))) ∧
    (isWire .getWp = false ∧ Instr.getWp ≠ .requestStop) ∧
    (Free { mounted 1000 with env.during := [[], [.callback .cardRemove 0]] } ∧
      (mounted 1000).cfg.channel < base.cfg.nChannels) ∧
    Free { mounted 1000 with env.during := [[.stop 0 0 0 0 0]] } ∧
    Free { mounted 1000 with env.during := [[], [.stop 0 0 0 0 0]] } ∧
    (mounted 1000).h.mountState = .mountedUnlocked ∧ (mounted 1000).h.compulsoryStop = false ∧
    (mounted 1000).h.cardPresent = true ∧ (mounted 1000).h.cardSectorSize ≤ (1000#32).toNat ∧
    ({ base with env.cardDetect := [false] } : State).env.cardDetect = [false] ∧
    512 * (1#32).toNat ≤ (512#32).toNat :=
  ⟨by decide, ⟨rfl, rfl⟩, by decide, ⟨⟨rfl, rfl⟩, by decide⟩, ⟨rfl, rfl⟩, ⟨rfl, rfl⟩, rfl, rfl, rfl, by decide, rfl, by decide⟩

/-- A store and a load just before the buffer, at its first and last byte, and just behind it; the other acts. -/
theorem witness_ActsOnTransfers :
    configured { waiting .xBurst none with inputs := [some (.store 0x1FFFFFFF 7)] } = true ∧
    configured { waiting .xBurst none with inputs := [some (.load 0x20000600)] } = true ∧
    (waiting .xBurst none).h.req = some ⟨62332925, 3, 0x20000000, 1536, .read, 0⟩ ∧
    ((0x1FFFFFFF#64).toNat % 2 ^ base.cfg.bufAddrBits < 0x20000000 ∧
      0x20000000 + 512 * 3 ≤ (0x20000600#64).toNat % 2 ^ base.cfg.bufAddrBits) ∧
    (0x20000000 ≤ (0x20000000#64).toNat % 2 ^ base.cfg.bufAddrBits ∧
      (0x200005FF#64).toNat % 2 ^ base.cfg.bufAddrBits < 0x20000000 + 512 * 3) ∧
    configured { base with inputs := [some (.peerDma true)] } = true ∧
    configured { base with inputs := [some (.power false)] } = true := by decide

theorem witness_DriverInitResets :
    configured { base with inputs := [some .finalize] } = true ∧
    configured { waiting .xBurst none with inputs := [some .finalize] } = true ∧
    configured { base with inputs := [some .driverInit], env.cardDetect := [false] } = true ∧ base.h.opActive = false ∧
    configured { waiting .xBurst none with inputs := [some .driverInit] } = true ∧
    (waiting .xBurst none).h.opActive = true ∧ base.cfg.cardDetectSupported = true := by decide

/-- A configuration outside its range, a request, a staged frame, a control step, an idle channel, each also with an arrival
still to come. -/
theorem witness_StepRunsDecodedInstruction :
    configured { base with cfg.chunkLimit := 2 } = false ∧
    configured { base with inputs := [some (.request ⟨5, 0, 0, 0, 0, 0⟩)] } = true ∧
    decode base.cfg.index (.request ⟨5, 0, 0, 0, 0, 0⟩) = .ok .getGeometry ∧
    configured { waiting .xVerify none with seq.staged := some ⟨0x4D, 0xB3680000⟩ } = true ∧
    decode base.cfg.index (.wire false ⟨0x4D, 0xB3680000⟩) = .ok (.cmd13 0xB3680000) ∧
    (waiting .xBurst none).seq.staged = none ∧ (waiting .xBurst none).h.opActive = true ∧
    configured { waiting .xBurst none with inputs := [some (.request ⟨9, 0, 0, 0, 0, 0⟩)] } = true ∧
    base.seq.staged = none ∧ base.h.opActive = false := by decide

/-- With a stop still to arrive, a control step takes the burst loop on: `Moves` says so of both slots. -/
theorem test_control_step_before_an_arrival :
    after (step { waiting .xBurst none with inputs := [none, some (.request ⟨9, 0, 0, 0, 0, 0⟩)] })
      (fun t => (t.h.phase, t.inputs.length)) = some (.xMulti, 1) := by decide

theorem witness_StepKeepsInvariant :
    Inv recovering ∧ step recovering = .next (nextState (step recovering)) := ⟨witness_recovering_sound, rfl⟩

theorem witness_EngineNeverStops : Inv recovering ∧ configured recovering = true ∧ recovering.inputs = [] :=
  ⟨witness_recovering_sound, by decide, rfl⟩

end Sys2Proof.Tests
end

section
/-! What the request decoder reads (R120–R127), and which row of a status table decides (R140, R141, R145). -/

namespace Sys2Proof.Proofs

open Sys2Proof Sys2Proof.Machine

/-! ### Requests -/

/-- The conditions of R122, one disjunct each. -/
theorem reservedRequestWord_iff (word : Word) :
    reservedRequestWord word = true ↔
      (word.extractLsb' 0 8 = 0#8 ∨ 0x0D#8 ≤ word.extractLsb' 0 8 ∨ word.extractLsb' 16 16 ≠ 0#16 ∨
        (word.extractLsb' 0 8 ≠ 1#8 ∧ word.extractLsb' 8 8 ≠ 0#8) ∨
        (word.extractLsb' 0 8 = 1#8 ∧ word.extractLsb' 9 7 ≠ 0#7)) := by
  by_cases mount : word.extractLsb' 0 8 = 1#8
  · simp [reservedRequestWord, mount]
  · simp [reservedRequestWord, mount, or_assoc]

/-- The opcodes of R121 that are told by the opcode byte alone are 0x02 to 0x0C. -/
theorem decodeOpcode_reserved_iff (opcode : Nat) (r : RequestWords) :
    decodeOpcode opcode r = .reservedRequest r.req ↔ opcode < 2 ∨ 12 < opcode := by
  unfold decodeOpcode
  split
  case h_12 =>
    simp only [true_iff, imp_false] at *
    omega
  all_goals simp

/-- The decoder reads exactly the words of R122 as the reserved request. -/
theorem decodeRequest_reserved_iff (r : RequestWords) :
    decodeRequest r = .reservedRequest r.req ↔ reservedRequestWord r.req = true := by
  rw [reservedRequestWord_iff]
  unfold decodeRequest
  split
  case isTrue high => simp [high]
  case isFalse high =>
    rw [not_not] at high
    split
    case isTrue mount =>
      split
      case isTrue mode => simp [high, mount, mode]
      case isFalse mode => simp [mount, mode]
    case isFalse other =>
      split
      case isTrue mid => simp [other, mid]
      case isFalse mid =>
        rw [not_not] at mid
        rw [decodeOpcode_reserved_iff]
        simp only [high, other, mid, ne_eq, not_true_eq_false, and_false, false_and, or_false]
        bv_omega

/-- A word is a lone opcode byte exactly when the three bytes above are zero. -/
theorem eq_setWidth_opcode_iff {word : Word} {opcode : Byte} :
    word = opcode.setWidth 32 ↔
      word.extractLsb' 0 8 = opcode ∧ word.extractLsb' 8 8 = 0#8 ∧ word.extractLsb' 16 16 = 0#16 := by
  simp only [← BitVec.toNat_inj, BitVec.extractLsb'_toNat, BitVec.toNat_setWidth, Nat.shiftRight_eq_div_pow,
    BitVec.toNat_ofNat]
  omega

/-- A word's bits 31:9 are zero exactly when its bits 15:9 and its upper half are. -/
theorem bits_31_9_eq_zero_iff {word : Word} :
    word.extractLsb' 9 23 = 0#23 ↔ word.extractLsb' 9 7 = 0#7 ∧ word.extractLsb' 16 16 = 0#16 := by
  simp only [← BitVec.toNat_inj, BitVec.extractLsb'_toNat, Nat.shiftRight_eq_div_pow, BitVec.toNat_ofNat]
  omega

/-- R122 and R127: what the decoder leaves outside the reserved request has an opcode of R121, and beyond it only MOUNT's
mode bit. -/
theorem not_reservedRequestWord {word : Word} (valid : ¬ reservedRequestWord word = true) :
    (word.extractLsb' 0 8 = 1#8 ∧ word.extractLsb' 9 23 = 0#23) ∨
      ∃ opcode : Byte, 2 ≤ opcode.toNat ∧ opcode.toNat ≤ 12 ∧ word = opcode.setWidth 32 := by
  simp only [reservedRequestWord_iff, not_or, not_and, not_not, ne_eq, BitVec.not_le] at valid
  obtain ⟨nonzero, below, high, mid, mode⟩ := valid
  by_cases mount : word.extractLsb' 0 8 = 1#8
  · exact .inl ⟨mount, bits_31_9_eq_zero_iff.2 ⟨mode mount, high⟩⟩
  · exact .inr ⟨_, by bv_omega, by bv_omega, eq_setWidth_opcode_iff.2 ⟨rfl, mid mount, high⟩⟩

/-- A word of MOUNT is read as MOUNT with its mode bit and its voltage (R124, R125). -/
theorem decodeRequest_mount {r : RequestWords} (mount : r.req.extractLsb' 0 8 = 1#8) (rest : r.req.extractLsb' 9 23 = 0#23) :
    decodeRequest r = .mount (r.req.getLsbD 8) (r.arg0.extractLsb' 15 9) := by
  obtain ⟨mode, high⟩ := bits_31_9_eq_zero_iff.1 rest
  simp [decodeRequest, mount, mode, high]

/-- A word with nothing above its opcode byte is read by its opcode, unless that is MOUNT's. -/
theorem decodeRequest_opcode {r : RequestWords} {opcode : Byte} (other : opcode ≠ 1#8) (word : r.req = opcode.setWidth 32) :
    decodeRequest r = decodeOpcode opcode.toNat r := by
  obtain ⟨low, mid, high⟩ := eq_setWidth_opcode_iff.1 word
  simp [decodeRequest, low, mid, high, other]

/-- Settles O3: the decoder's branches are the conditions of R122, and the four requests have refusing arms. -/
theorem requestsWithoutAStep : Obligations.RequestsWithoutAStep := by
  refine ⟨fun t w => ?_, fun s => ⟨fun _ => rfl, fun _ _ _ => rfl, rfl, rfl⟩⟩
  rw [← reservedRequestWord_iff, ← decodeRequest_reserved_iff]
  exact ⟨Except.ok.inj, congrArg Except.ok⟩

/-- Settles O4: by the opcode byte of a word that is not reserved. -/
theorem requestDecoderIsTotal : Obligations.RequestDecoderIsTotal := by
  intro t w
  refine ⟨decodeRequest w, rfl, ?_⟩
  by_cases reserved : reservedRequestWord w.req = true
  · exact .inl ⟨reserved, (decodeRequest_reserved_iff w).2 reserved⟩
  refine .inr ?_
  rcases not_reservedRequestWord reserved with ⟨mount, rest⟩ | ⟨opcode, low, high, word⟩
  · exact .inl ⟨mount, rest, decodeRequest_mount mount rest⟩
  refine .inr ?_
  rw [decodeRequest_opcode (by bv_omega) word, word]
  obtain ⟨⟨opcode, bound⟩⟩ := opcode
  simp only [BitVec.toNat_ofFin] at low high ⊢
  interval_cases opcode <;> simp [decodeOpcode]

/-! ### The row that decides -/

/-- No row decides exactly when no row's bit is set. -/
theorem highestSet_eq_none_iff (rows : List (Nat × ErrorKind)) (set : Nat → Bool) :
    highestSet rows set = none ↔ ∀ row ∈ rows, set row.1 = false := by
  induction rows with
  | nil => simp [highestSet]
  | cons row rest ih =>
    rw [List.forall_mem_cons, ← ih, highestSet]
    cases highestSet rest set with
    | none => simp
    | some best =>
      simp only [reduceCtorEq, and_false, iff_false]
      split <;> exact Option.some_ne_none _

/-- The row that decides is a row whose bit is set, and no set bit of the table lies above it (R141). -/
theorem highestSet_eq_some {rows : List (Nat × ErrorKind)} {set : Nat → Bool} {best : Nat × ErrorKind}
    (h : highestSet rows set = some best) :
    best ∈ rows ∧ set best.1 = true ∧ ∀ row ∈ rows, set row.1 = true → row.1 ≤ best.1 := by
  induction rows generalizing best with
  | nil => cases h
  | cons row rest ih =>
    rw [highestSet] at h
    rw [List.forall_mem_cons]
    cases hrest : highestSet rest set with
    | none =>
      have clear := (highestSet_eq_none_iff rest set).1 hrest
      simp only [hrest, Option.ite_none_right_eq_some, Option.some.injEq] at h
      obtain ⟨hset, rfl⟩ := h
      exact ⟨List.mem_cons_self, hset, fun _ => le_rfl, fun other mem up => by simp [clear other mem] at up⟩
    | some top =>
      obtain ⟨mem, up, highest⟩ := ih hrest
      simp only [hrest] at h
      split at h
      case isTrue above =>
        obtain rfl := Option.some.inj h
        exact ⟨List.mem_cons_self, above.1, fun _ => le_rfl, fun other m u => (highest other m u).trans above.2.le⟩
      case isFalse below =>
        obtain rfl := Option.some.inj h
        exact ⟨List.mem_cons_of_mem _ mem, up, fun u => not_lt.1 fun lt => below ⟨u, lt⟩, highest⟩

/-- At distinct positions, a row whose bit is set decides when every row above it is clear (R141, R145). -/
theorem highestSet_of_clear_above {rows : List (Nat × ErrorKind)} {set : Nat → Bool} {row : Nat × ErrorKind}
    (distinct : (rows.map (·.1)).Nodup) (mem : row ∈ rows) (up : set row.1 = true)
    (clear : ∀ other ∈ rows, row.1 < other.1 → set other.1 = false) : highestSet rows set = some row := by
  cases h : highestSet rows set with
  | none => simp [(highestSet_eq_none_iff rows set).1 h row mem] at up
  | some best =>
    obtain ⟨bestMem, bestUp, highest⟩ := highestSet_eq_some h
    have notAbove : ¬ row.1 < best.1 := fun lt => by simp [clear best bestMem lt] at bestUp
    have same : best.1 = row.1 := le_antisymm (not_lt.1 notAbove) (highest row mem up)
    rw [List.inj_on_of_nodup_map distinct bestMem mem same]

/-- A value has no bit of a table's mask exactly when no row's bit is set. -/
theorem and_mask_eq_zero_iff {w : Nat} {rows : List (Nat × ErrorKind)} {mask : BitVec w}
    (bits : ∀ b, b < w → (mask.getLsbD b = true ↔ b ∈ rows.map (·.1))) (v : BitVec w) :
    v &&& mask = 0#w ↔ ∀ row ∈ rows, v.getLsbD row.1 = false := by
  constructor
  · intro zero row mem
    have masked : (v.getLsbD row.1 && mask.getLsbD row.1) = false := by rw [← BitVec.getLsbD_and, zero, BitVec.getLsbD_zero]
    by_cases inside : row.1 < w
    · simpa [(bits row.1 inside).2 (List.mem_map_of_mem mem)] using masked
    · exact BitVec.getLsbD_of_ge v row.1 (not_lt.1 inside)
  · intro clear
    refine BitVec.eq_of_getLsbD_eq fun b inside => ?_
    rw [BitVec.getLsbD_and, BitVec.getLsbD_zero, Bool.and_eq_false_iff, ← Bool.not_eq_true (mask.getLsbD b), bits b inside]
    by_cases listed : b ∈ rows.map (·.1)
    · obtain ⟨row, mem, rfl⟩ := List.mem_map.1 listed
      exact .inl (clear row mem)
    · exact .inr listed

/-! ### The masks -/

/-- Collecting bits into a mask sets those of the list and keeps those it began with. -/
theorem getLsbD_foldl_or_bit (rows : List (Nat × ErrorKind)) (mask : Word) {b : Nat} (hb : b < 32) :
    (rows.foldl (fun m row => m ||| bit row.1) mask).getLsbD b = true ↔ mask.getLsbD b = true ∨ b ∈ rows.map (·.1) := by
  induction rows generalizing mask with
  | nil => simp
  | cons row rest ih =>
    have single : (bit row.1).getLsbD b = true ↔ b = row.1 := by
      rw [bit, ← BitVec.twoPow_eq, BitVec.getLsbD_twoPow, Bool.and_eq_true, decide_eq_true_eq, decide_eq_true_eq]
      omega
    rw [List.foldl_cons, ih, BitVec.getLsbD_or, Bool.or_eq_true, single, List.map_cons, List.mem_cons, or_assoc]

/-- R140: R1_ERR_MASK is the listed bits. -/
theorem getLsbD_r1ErrMask (p : R1Positions) (b : Nat) (hb : b < 32) :
    (r1ErrMask p).getLsbD b = true ↔ b ∈ (r1Table p).map (·.1) := by
  simp [r1ErrMask, getLsbD_foldl_or_bit _ _ hb]

/-- R145: at the spec's positions the error bits are those of 0x807F. -/
theorem getLsbD_sts2Mask :
    ∀ b, b < 16 → ((0x807F#16).getLsbD b = true ↔ b ∈ (sts2Table Config.reference.pos.sts2).map (·.1)) := by decide

/-- R140: a status with no bit of the error mask has no error. -/
theorem r1Error_of_mask_clear {p : R1Positions} {s : Word} (clean : s &&& r1ErrMask p = 0#32) : r1Error p s = none := by
  rw [r1Error, (highestSet_eq_none_iff _ _).2 ((and_mask_eq_zero_iff (getLsbD_r1ErrMask p) s).1 clean), Option.map_none]

/-- R141: a listed bit that is set, with no bit of the error mask above it, gives the error. -/
theorem r1Error_of_highest_bit {p : R1Positions} {s : Word} {row : Nat × ErrorKind}
    (distinct : ((r1Table p).map (·.1)).Nodup) (mem : row ∈ r1Table p) (up : s.getLsbD row.1 = true)
    (clear : ∀ b, row.1 < b → (r1ErrMask p &&& s).getLsbD b = false) : r1Error p s = some row.2 := by
  have above : ∀ other ∈ r1Table p, row.1 < other.1 → s.getLsbD other.1 = false := by
    intro other otherMem lt
    by_cases inside : other.1 < 32
    · simpa [BitVec.getLsbD_and, (getLsbD_r1ErrMask p _ inside).2 (List.mem_map_of_mem otherMem)] using clear _ lt
    · exact BitVec.getLsbD_of_ge s other.1 (not_lt.1 inside)
  rw [r1Error, highestSet_of_clear_above distinct mem up above, Option.map_some]

/-- R145: a secondary status has no error exactly when no row's bit is set. -/
theorem sts2Error_eq_none_iff (p : Sts2Positions) (v : Sts2) :
    sts2Error p v = none ↔ ∀ row ∈ sts2Table p, v.getLsbD row.1 = false := by
  rw [sts2Error, Option.map_eq_none_iff, highestSet_eq_none_iff]

/-- R145: a row whose bit is set, with every row above it clear, gives the error. -/
theorem sts2Error_of_highest_bit {p : Sts2Positions} {v : Sts2} {row : Nat × ErrorKind}
    (distinct : ((sts2Table p).map (·.1)).Nodup) (mem : row ∈ sts2Table p) (up : v.getLsbD row.1 = true)
    (clear : ∀ other ∈ sts2Table p, row.1 < other.1 → v.getLsbD other.1 = false) : sts2Error p v = some row.2 := by
  rw [sts2Error, highestSet_of_clear_above distinct mem up clear, Option.map_some]

/-- Settles O7: the mask is the table's bits, and the row that decides is the one with no set bit of the mask above it. -/
theorem highestR1BitDecides : Obligations.HighestR1BitDecides :=
  ⟨fun p _ distinct => ⟨getLsbD_r1ErrMask p, r1Error_of_mask_clear, fun _ => r1Error_of_highest_bit distinct⟩, by decide⟩

/-- Settles O8: the row that decides is the one with every row above it clear; 0x807F is the mask of the spec's rows. -/
theorem highestSts2BitDecides : Obligations.HighestSts2BitDecides := by
  refine ⟨fun p v distinct => ⟨(sts2Error_eq_none_iff p v).2, fun _ => sts2Error_of_highest_bit distinct⟩, fun v => ?_⟩
  rw [sts2Error_eq_none_iff, and_mask_eq_zero_iff getLsbD_sts2Mask]

end Sys2Proof.Proofs
end

section
/-! What `issue` does when the Port's answers are listed: the busy wait (R161), the calls and their classification (R160 to
R165), and the commands that copy the OCR (R176). -/

namespace Sys2Proof.Proofs

open Sys2Proof Sys2Proof.Machine Sys2Proof.Claims

/-! ### The busy wait -/

/-- The state after some STS2 reads whose answers were listed before `later`. -/
def statusPolled (reads : Nat) (later : List Sts2) (s : State) : State :=
  { s with env.sts2 := later, log := calls s (List.replicate reads (.read .sts2)) ++ s.log }

theorem statusPolled_zero {later : List Sts2} {s : State} (listed : s.env.sts2 = later) : statusPolled 0 later s = s := by
  subst listed
  rfl

theorem statusPolled_statusPolled (m n : Nat) (mid later : List Sts2) (s : State) :
    statusPolled m later (statusPolled n mid s) = statusPolled (n + m) later s := by
  simp [statusPolled, calls, Nat.add_comm n m, ← List.replicate_append_replicate]

/-- R70: a listed answer is read, and the read is recorded. -/
theorem readSts2_listed {v : Sts2} {later : List Sts2} {s : State} (listed : s.env.sts2 = v :: later) :
    readSts2 s = (v, statusPolled 1 later s) := by
  simp [readSts2, listed, statusPolled, calls, logCall]

theorem busyWait_of_not_ready {v : Sts2} {later : List Sts2} {s : State} (n : Nat) (listed : s.env.sts2 = v :: later)
    (busy : busyReady s.cfg.pos.sts2 v = false) : busyWait (n + 1) s = busyWait n (statusPolled 1 later s) := by
  simp [busyWait, readSts2_listed listed, busy]

theorem busyWait_of_ready {v : Sts2} {later : List Sts2} {s : State} (n : Nat) (listed : s.env.sts2 = v :: later)
    (ready : busyReady s.cfg.pos.sts2 v = true) : busyWait (n + 1) s = (true, statusPolled 1 later s) := by
  simp [busyWait, readSts2_listed listed, ready]

/-- Each answer that finds the bus not ready costs the wait one of its reads. -/
theorem busyWait_past_not_ready {notReady rest : List Sts2} {s : State} (n : Nat) (listed : s.env.sts2 = notReady ++ rest)
    (busy : ∀ v ∈ notReady, busyReady s.cfg.pos.sts2 v = false) :
    busyWait (notReady.length + n) s = busyWait n (statusPolled notReady.length rest s) := by
  induction notReady generalizing s with
  | nil => rw [List.length_nil, Nat.zero_add, statusPolled_zero (later := rest) listed]
  | cons v notReady ih =>
    obtain ⟨first, others⟩ := List.forall_mem_cons.1 busy
    calc busyWait ((v :: notReady).length + n) s
        = busyWait (notReady.length + n + 1) s := by rw [List.length_cons, Nat.add_right_comm]
      _ = busyWait (notReady.length + n) (statusPolled 1 (notReady ++ rest) s) := busyWait_of_not_ready _ listed first
      _ = busyWait n (statusPolled notReady.length rest (statusPolled 1 (notReady ++ rest) s)) := ih rfl others
      _ = busyWait n (statusPolled (v :: notReady).length rest s) := by
        rw [statusPolled_statusPolled, List.length_cons, Nat.add_comm 1]

/-- R161: a wait whose every read finds the bus not ready fails after the last. -/
theorem busyWait_exhausted {notReady rest : List Sts2} {s : State} (listed : s.env.sts2 = notReady ++ rest)
    (busy : ∀ v ∈ notReady, busyReady s.cfg.pos.sts2 v = false) :
    busyWait notReady.length s = (false, statusPolled notReady.length rest s) :=
  busyWait_past_not_ready 0 listed busy

/-- R161: a wait within its limit ends with the first read that finds the bus ready. -/
theorem busyWait_settles {limit : Nat} {notReady later : List Sts2} {v : Sts2} {s : State}
    (listed : s.env.sts2 = notReady ++ v :: later) (busy : ∀ v ∈ notReady, busyReady s.cfg.pos.sts2 v = false)
    (ready : busyReady s.cfg.pos.sts2 v = true) (within : notReady.length < limit) :
    busyWait limit s = (true, statusPolled (notReady.length + 1) later s) := by
  obtain ⟨n, rfl⟩ := Nat.exists_eq_add_of_lt within
  rw [Nat.add_assoc, busyWait_past_not_ready _ listed busy, busyWait_of_ready (s := statusPolled ..) n rfl ready,
    statusPolled_statusPolled]

/-- Settles O9: each not-ready answer costs one read of the wait, by induction on them. -/
theorem busySpinIsBounded : Obligations.BusySpinIsBounded := by
  intro s notReady rest cmd arg kind tc listed busy
  constructor
  · intro atLimit
    rw [issue, ← atLimit, busyWait_exhausted listed busy]
    rfl
  · rintro v later rfl ready within
    exact busyWait_settles listed busy ready within

/-! ### The calls of `issue` -/

/-- The calls of the busy wait are the oldest of `issue`'s. -/
theorem issueCalls_append_log (s : State) (cmd : Indices → BitVec 6) (arg : Word) (kind : RespKind) (tc : TimeoutClass)
    (reads : Nat) (later : List Sts2) :
    issueCalls s cmd arg kind tc 0 ++ (statusPolled reads later s).log =
      issueCalls s cmd arg kind tc reads ++ s.log := by
  simp [issueCalls, statusPolled, calls]

/-- R160, R162, R164, R165: what follows the busy wait, on a listed event and a listed status. -/
theorem sendCommand_listed {s : State} {arrived : Bool} {events : List (Option EventClass)} {after : Sts2}
    {later : List Sts2} (cmd : Indices → BitVec 6) (arg : Word) (kind : RespKind) (tc : TimeoutClass)
    (status : s.env.sts2 = after :: later)
    (wait : awaitEvent [.respEnd, .cmdError] s.env.events = some (arrived, events)) :
    sendCommand cmd arg kind tc s = (classify s.cfg.pos.sts2 after arrived,
      { s with
        h.irqMask := [], h.inFlight := false, h.lastSts2 := after, env.sts2 := later, env.events := events
        log := issueCalls s cmd arg kind tc 0 ++ s.log }) := by
  simp [sendCommand, portWait, eventArrives, wait, readStatus, readSts2, status, setMask, writeReg, logCall, issueCalls,
    calls]

/-- `issue` on a listed reply: the state of `issued`, and the classification of the status read after the wait. -/
theorem issue_answered {s : State} {r : Reply} {arrived : Bool} (answers : Answers s r arrived)
    (cmd : Indices → BitVec 6) (arg : Word) (kind : RespKind) (tc : TimeoutClass) :
    issue cmd arg kind tc s = (classify s.cfg.pos.sts2 r.after arrived, issued s r cmd arg kind tc) := by
  obtain ⟨listed, within, busy, settles, wait⟩ := answers
  rw [issue, busyWait_settles listed busy settles within]
  refine (sendCommand_listed (s := statusPolled ..) cmd arg kind tc rfl wait).trans ?_
  rw [issued, ← issueCalls_append_log (later := r.after :: r.sts2)]
  rfl

/-- Settles O10: the busy wait ends on the reply's ready status, and the rest of `issue` runs on what follows it. -/
theorem issueSequence : Obligations.IssueSequence :=
  fun _ _ _ cmd arg kind tc answers => issue_answered answers cmd arg kind tc

/-! ### Commands that copy the OCR -/

/-- `issue` of an accepted command answers Ok. -/
theorem issue_accepted {s : State} {r : Reply} (accepted : Accepted s r) (cmd : Indices → BitVec 6) (arg : Word)
    (kind : RespKind) (tc : TimeoutClass) : issue cmd arg kind tc s = (none, issued s r cmd arg kind tc) := by
  rw [issue_answered accepted.answers, classify, accepted.clean]
  rfl

/-- A wire command that is accepted completes with what follows its `issue`. -/
theorem command_accepted {s : State} {r : Reply} (accepted : Accepted s r) (announces : Bool) (cmd : Indices → BitVec 6)
    (arg : Word) (kind : RespKind) (tc : TimeoutClass) (k : State → Option ErrorKind × State) :
    command announces (fun s => andThen (issue cmd arg kind tc s) k) s =
      .next (endCommand announces (k (issued s r cmd arg kind tc))) := by
  rw [command, accepted.idle, issue_accepted accepted]
  rfl

theorem readRsp_listed {v : PortWord} {rsp : List PortWord} {s : State} (listed : s.env.rsp = v :: rsp) :
    readRsp s = (v, responded rsp s) := by
  simp [readRsp, listed, responded, calls, logCall]

/-- R176: the response is copied unchecked. -/
theorem respR3_listed {v : PortWord} {rsp : List PortWord} {s : State} (listed : s.env.rsp = v :: rsp) :
    respR3 s = (none, { responded rsp s with h.ocr := .holding (v.setWidth 32) }) := by
  rw [respR3, readRsp_listed listed]

/-- R176: an accepted command with an R3 response copies it to `h.ocr` and completes. -/
theorem respR3_command_accepted {s : State} {r : Reply} {v : PortWord} {rsp : List PortWord} (accepted : Accepted s r)
    (listed : s.env.rsp = v :: rsp) (cmd : Indices → BitVec 6) (arg : Word) (tc : TimeoutClass) :
    command false (fun s => andThen (issue cmd arg .r3 tc s) respR3) s = .next (ended false .ok
      { responded rsp (issued s r cmd arg .r3 tc) with h.ocr := .holding (v.setWidth 32) }) := by
  rw [command_accepted accepted, respR3_listed (s := issued ..) listed]
  rfl

/-- Settles O13: CMD1 and ACMD41 are commands with an R3 response. -/
theorem ocrCommands : Obligations.OcrCommands := fun _ _ arg _ _ accepted listed =>
  ⟨respR3_command_accepted accepted listed (·.cmd1) arg .cmd, respR3_command_accepted accepted listed (·.acmd41) arg .acmd⟩

end Sys2Proof.Proofs
end

section
/-! How a control step ends, in the words of the claims: the next command spelled, the clock switched (R254), or the
operation returned (R272); and what follows CMD7 (R254, R255). -/

namespace Sys2Proof.Proofs

open Sys2Proof Sys2Proof.Machine Sys2Proof.Claims

/-- A staged command is a spelled one that no CMD55 announced. -/
theorem stage_eq_spelled (p : Phase) (cmd : Indices → BitVec 6) (arg : Word) (s : State) :
    stage p cmd arg s = spelled p cmd arg false s := by
  simp only [stage, spelled, Laws.frameHead_bits]

/-- R272, R383: an operation without an error returns its own result, its clock halted. -/
theorem finish_haltClock_eq_returned {s : State} (own : Word) (clean : s.h.stickyError = none) :
    finish own (haltClock s) = returned own s := by
  have result : resultOf own (haltClock s).h.stickyError = own := by rw [Laws.haltClock_h, clean, resultOf]
  rw [finish, result]
  rfl

/-- R254: with its divider code listed, the transfer clock is selected by one divider call and one register write. -/
theorem selectClock_fXfer_listed {d : PortWord} {regs : List PortWord} {s : State} (listed : s.env.regs = d :: regs) :
    selectClock .fXfer s = { s with
      h.clockFreq := .fXfer, env.regs := regs
      log := calls s [.write .clkCtrl (d ||| s.cfg.clkEnable), .divider s.cfg.fXfer] ++ s.log } := by
  simp [selectClock, drawReg, listed, calls, writeReg, logCall, portEvent]

/-- The control step of the phase whose command has a result. -/
theorem moves_of_after {s : State} {p : Phase} {r : CmdResult} (done : After s p r) : Moves s (advanceAfter r s) :=
  Laws.moves_after done.configured done.active done.unstaged done.result

/-- R254: after CMD7 the sequencer does what `afterSelect` says. -/
theorem moves_afterSelect {s : State} {r : CmdResult} (done : After s .mSelect r) : Moves s (afterSelect r s) := by
  simpa only [advanceAfter, done.phase] using moves_of_after done

/-- R255: a locked card ends the mount, and the clock that R254 switched is halted. -/
theorem afterSelect_of_locked {s : State} (locked : s.h.lastR1.getLsbD s.cfg.pos.r1.cardLocked = true) :
    afterSelect .ok s = .next (finish lockedResult (haltClock
      { selectClock .fXfer { s with seq.selected := true } with h.mountState := .mountedLocked })) :=
  if_pos locked

/-- R256: an unlocked card is given its block length. -/
theorem afterSelect_of_unlocked {s : State} (unlocked : s.h.lastR1.getLsbD s.cfg.pos.r1.cardLocked = false) :
    afterSelect .ok s =
      .next (stage .mBlockLen (·.cmd16) 512#32 (selectClock .fXfer { s with seq.selected := true })) :=
  if_neg (Bool.eq_false_iff.1 unlocked)

/-- Settles O40: the clock is selected on the listed divider code, then R255 decides by the locked bit of the R1. -/
theorem selectOutcome : Obligations.SelectOutcome := by
  intro s d regs done listed
  have clock := selectClock_fXfer_listed (s := { s with seq.selected := true }) listed
  have moves := moves_afterSelect done
  constructor
  · intro locked clean
    rw [afterSelect_of_locked locked, clock, finish_haltClock_eq_returned] at moves
    · exact moves
    · exact clean
  · intro unlocked
    rw [afterSelect_of_unlocked unlocked, clock, stage_eq_spelled] at moves
    exact moves

end Sys2Proof.Proofs
end

section
/-! The preconditions of READ and WRITE (R293, R295, R332): which of them fails first, and that a request answers an error
exactly when one fails. -/

namespace Sys2Proof.Proofs

open Sys2Proof Sys2Proof.Machine Sys2Proof.Claims

/-- The first precondition of R293 that fails, if any, where nothing lands between them. -/
def transferError (dir : Direction) (start count : Nat) (s : State) : Option ErrorKind :=
  (accessError s).or (rangeError dir start count s)

/-! ### What a transfer request answers -/

/-- R24, R293: the model's failing end of a request is that of the claims. -/
theorem failOp_beginOp_eq_preconditionFailed (e : ErrorKind) (s : State) :
    failOp e (beginOp .xCheck s) = preconditionFailed s e := rfl

/-- R293: with room in the buffer and nothing landing, the first failing precondition is answered, and the transfer is
admitted when there is none. -/
theorem transfer_eq_elim_transferError {len count : Nat} {s : State} (room : 512 * count ≤ len) (quiet : s.env.during = [])
    (dir : Direction) (start buf : Nat) :
    transfer dir start count buf len s =
      (transferError dir start count s).elim (admitTransfer dir start count buf len s)
        (fun e => .next (preconditionFailed s e)) := by
  simp only [transfer, if_neg room.not_gt, Laws.landing_none quiet, failOp_beginOp_eq_preconditionFailed, transferError]
  cases accessError s with
  | some e => rfl
  | none => cases rangeError dir start count s <;> rfl

/-- R296, R297: an admitted transfer leaves no error recorded. -/
theorem stickyError_of_admitTransfer {dir : Direction} {start count buf len : Nat} {s t : State}
    (admitted : admitTransfer dir start count buf len s = .next t) : t.h.stickyError = none := by
  unfold admitTransfer at admitted
  split at admitted
  case isTrue => cases admitted; simp
  case isFalse =>
    split at admitted
    case isTrue => cases admitted
    case isFalse => cases admitted; simp [startTransfer]

/-- A transfer request ends with an error exactly when that is its first failing precondition's. -/
theorem transfer_eq_preconditionFailed_iff {len count : Nat} {s : State} (room : 512 * count ≤ len)
    (quiet : s.env.during = []) (dir : Direction) (start buf : Nat) (e : ErrorKind) :
    transfer dir start count buf len s = .next (preconditionFailed s e) ↔ transferError dir start count s = some e := by
  rw [transfer_eq_elim_transferError room quiet]
  cases transferError dir start count s with
  | none =>
    simp only [Option.elim_none, reduceCtorEq, iff_false]
    exact fun failed => Option.some_ne_none e (stickyError_of_admitTransfer failed)
  | some first =>
    simp only [Option.elim_some, Option.some.injEq]
    constructor
    · intro same
      injection same with same
      exact Option.some.inj (congrArg (·.h.stickyError) same)
    · rintro rfl
      rfl

/-- R290, R360: a READ on a free channel is the transfer, as nothing lands at its acceptance. -/
theorem exec_read_of_free {s : State} (free : Free s) (quiet : s.env.during = []) (start count len : Word)
    (buf : BitVec 64) :
    exec (.read start count buf len) s =
      transfer .read start.toNat count.toNat (bufferAddress s.cfg buf) len.toNat s := by
  obtain ⟨live, idle⟩ := free
  rw [exec, execRead, Laws.accept_admitted live idle, Laws.landing_none quiet]

/-- R291, R360: a WRITE on a free channel is the transfer, as nothing lands at its acceptance. -/
theorem exec_write_of_free {s : State} (free : Free s) (quiet : s.env.during = []) (start count len : Word)
    (buf : BitVec 64) :
    exec (.write start count buf len) s =
      transfer .write start.toNat count.toNat (bufferAddress s.cfg buf) len.toNat s := by
  obtain ⟨live, idle⟩ := free
  rw [exec, execWrite, Laws.accept_admitted live idle, Laws.landing_none quiet]

/-! ### Which precondition fails first -/

section
variable {dir : Direction} {start count : Nat} {s : State}

theorem transferError_of_unmounted (unmounted : s.h.mountState = .unmounted) :
    transferError dir start count s = some .notMounted := by
  simp [transferError, accessError, unmounted]

theorem transferError_of_locked (locked : s.h.mountState = .mountedLocked) :
    transferError dir start count s = some .cardLocked := by
  simp [transferError, accessError, locked]

theorem transferError_of_stopped (mounted : s.h.mountState = .mountedUnlocked) (stopped : s.h.compulsoryStop = true) :
    transferError dir start count s = some .stopped := by
  simp [transferError, accessError, mounted, stopped]

/-- On a mounted, unlocked card with no stop requested, the presence of the card and the range decide. -/
theorem transferError_of_accessible (mounted : s.h.mountState = .mountedUnlocked) (running : s.h.compulsoryStop = false) :
    transferError dir start count s = rangeError dir start count s := by
  simp [transferError, accessError, mounted, running]

/-- Without card detection the card counts as present (R49). -/
theorem cardPresent_iff : cardPresent s = true ↔ s.cfg.cardDetectSupported = false ∨ s.h.cardPresent = true := by
  cases detects : s.cfg.cardDetectSupported <;> simp [cardPresent, detects]

theorem rangeError_of_absent (detects : s.cfg.cardDetectSupported = true) (absent : s.h.cardPresent = false) :
    rangeError dir start count s = some .noCard := by
  simp [rangeError, cardPresent, detects, absent]

theorem outOfRange_iff {sectors : Nat} :
    outOfRange start count sectors = true ↔ sectors ≤ start ∨ sectors < start + count := by
  simp [outOfRange]

/-- R332: with the card present, OutOfRange is the error exactly of a range that leaves the card. -/
theorem rangeError_eq_outOfRange_iff (present : cardPresent s = true) :
    rangeError dir start count s = some .outOfRange ↔
      s.h.cardSectorSize ≤ start ∨ s.h.cardSectorSize < start + count := by
  rw [← outOfRange_iff]
  by_cases outside : outOfRange start count s.h.cardSectorSize = true
  · simp [rangeError, present, outside]
  · simp [rangeError, present, outside]

/-- R295: a write inside the range is refused by a protected card. -/
theorem rangeError_of_protected (present : cardPresent s = true)
    (inside : ¬ (s.h.cardSectorSize ≤ start ∨ s.h.cardSectorSize < start + count))
    (isProtected : s.h.writeProtectFlags ≠ 0#4) :
    rangeError .write start count s = some .writeProtectViolation := by
  simp [rangeError, present, mt outOfRange_iff.1 inside, isProtected]

end

/-- Settles O31: a request answers an error exactly when it is the first failing precondition's, and R293's order decides
which that is. -/
theorem transferPreconditions : Obligations.TransferPreconditions := by
  intro s start count len buf free quiet room
  simp only [exec_read_of_free free quiet, exec_write_of_free free quiet, transfer_eq_preconditionFailed_iff room quiet]
  refine ⟨fun unmounted => ⟨transferError_of_unmounted unmounted, transferError_of_unmounted unmounted⟩,
    fun locked => ⟨transferError_of_locked locked, transferError_of_locked locked⟩,
    fun mounted => ⟨fun stopped => ⟨transferError_of_stopped mounted stopped, transferError_of_stopped mounted stopped⟩,
      fun running => ?_⟩⟩
  simp only [transferError_of_accessible mounted running]
  refine ⟨fun detects absent => ⟨rangeError_of_absent detects absent, rangeError_of_absent detects absent⟩, fun shown => ?_⟩
  have present := cardPresent_iff.2 shown
  simp only [rangeError_eq_outOfRange_iff present]
  exact ⟨fun outside => ⟨outside, outside⟩, id, id, rangeError_of_protected present⟩

end Sys2Proof.Proofs
end

section
/-! UNMOUNT (R350): the handle forgets the card, then the clock is halted and Ok is answered. -/

namespace Sys2Proof.Proofs

open Sys2Proof Sys2Proof.Machine Sys2Proof.Claims

/-- R220, R350: the reset that MOUNT and UNMOUNT share is the claims' `cardForgotten` and one bus call; the unwritten images
have the values it leaves. -/
theorem resetCardFields_forgets (s : State) : ∃ u : Handle,
    resetCardFields s = { s with h := cardForgotten u s.h, log := calls s [.busSelect .one] ++ s.log } :=
  ⟨(resetCardFields s).h, rfl⟩

/-- R350, R360: UNMOUNT on a free channel is its effect, as nothing lands at its acceptance. -/
theorem exec_unmount_of_free {s : State} (free : Free s) (quiet : s.env.during = []) :
    exec .unmount s = .next (unmountEffect s) := by
  obtain ⟨live, idle⟩ := free
  rw [exec, execUnmount, Laws.accept_admitted live idle, Laws.landing_none quiet]

/-- Settles O28: what remains after the reset is the halted clock, recorded after the bus call, and the answer Ok. -/
theorem unmountResets : Obligations.UnmountResets := by
  intro s free quiet
  obtain ⟨u, reset⟩ := resetCardFields_forgets s
  refine ⟨u, ?_⟩
  rw [exec_unmount_of_free free quiet, unmountEffect, reset]
  rfl

end Sys2Proof.Proofs
end

section
/-! How recovery goes on after each of its commands (R404): the return with the captured error (R405, R406), or the one
CMD12 after a poll that did not find the card in Transfer state. -/

namespace Sys2Proof.Proofs

open Sys2Proof Sys2Proof.Machine Sys2Proof.Claims

/-- R386, R388: an operation with an error recorded returns that error, its clock halted. -/
theorem finish_haltClock_of_error {s : State} {e : ErrorKind} (own : Word) (recorded : s.h.stickyError = some e) :
    finish own (haltClock s) = returned (0#24 ++ errorCode e) s := by
  have result : resultOf own (haltClock s).h.stickyError = 0#24 ++ errorCode e := by
    rw [Laws.haltClock_h, recorded, resultOf, errorResult]
  rw [finish, result]
  rfl

/-- R405, R406: recovery returns with the captured error restored. -/
theorem recoveryReturn_eq_returned {s : State} {e : ErrorKind} (captured : s.seq.saved = some e) :
    recoveryReturn s = returned (0#24 ++ errorCode e) { s with h.stickyError := some e } := by
  rw [recoveryReturn, captured]
  exact finish_haltClock_of_error okResult rfl

/-- R142: Transfer state is 4 in the status' state field. -/
theorem inTran_iff {p : R1Positions} {status : Word} :
    inTran p status = true ↔ status.extractLsb' p.currentState 4 = 4#4 := decide_eq_true_iff

/-- R404: after a command of recovery the sequencer does what `afterRecoveryCommand` says. -/
theorem moves_afterRecoveryCommand {s : State} {r : CmdResult} (done : After s .recovery r) :
    Moves s (afterRecoveryCommand r s) := by
  simpa only [advanceAfter, done.phase] using moves_of_after done

/-- R404: the result of recovery's CMD12 is ignored. -/
theorem afterRecoveryCommand_of_polled {s : State} (r : CmdResult) (polled : s.seq.polled = true) :
    afterRecoveryCommand r s = .next (recoveryReturn s) :=
  if_pos polled

/-- R404: a poll that finds the card in Transfer state needs no CMD12. -/
theorem afterRecoveryCommand_of_inTran {s : State} {r : CmdResult} (poll : s.seq.polled = false)
    (found : r = .ok ∧ inTran s.cfg.pos.r1 s.h.lastR1 = true) : afterRecoveryCommand r s = .next (recoveryReturn s) := by
  rw [afterRecoveryCommand, if_neg (Bool.eq_false_iff.1 poll), if_pos found]

/-- R404: any other poll is followed by CMD12, and none after it, as the card then counts as polled. -/
theorem afterRecoveryCommand_of_not_inTran {s : State} {r : CmdResult} (poll : s.seq.polled = false)
    (missed : ¬ (r = .ok ∧ inTran s.cfg.pos.r1 s.h.lastR1 = true)) :
    afterRecoveryCommand r s = .next (spelled .recovery (·.cmd12) 0#32 false { s with seq.polled := true }) := by
  rw [afterRecoveryCommand, if_neg (Bool.eq_false_iff.1 poll), if_neg missed, stage_eq_spelled]

/-- Settles O50: by whether the answered command is the poll, and whether the poll found the card in Transfer state.
Protected, so that `recoveryReturn` still names the model's function in this namespace. -/
protected theorem recoveryReturn : Obligations.RecoveryReturn := by
  intro s r e done captured
  have moves := moves_afterRecoveryCommand done
  have back := recoveryReturn_eq_returned captured
  refine ⟨fun polled => ?_, fun poll ok tran => ?_, fun poll other => ?_⟩
  · rwa [afterRecoveryCommand_of_polled r polled, back] at moves
  · rwa [afterRecoveryCommand_of_inTran poll ⟨ok, inTran_iff.2 tran⟩, back] at moves
  · rwa [afterRecoveryCommand_of_not_inTran poll (by rwa [inTran_iff, not_and_or])] at moves

end Sys2Proof.Proofs
end

section
/-! R435, R44: no step changes a parameter; only driver init sets the chunk limit, and only MOUNT, UNMOUNT, driver init and
finalize clear a stop. -/

namespace Sys2Proof.Proofs

open Sys2Proof Sys2Proof.Machine Sys2Proof.Claims Sys2Proof.Laws

/-- The configuration and the channel's chunk limit are the same in both states (R435). -/
structure ParametersKept (s t : State) : Prop where
  cfg : t.cfg = s.cfg
  limit : t.h.transferChunkLimit = s.h.transferChunkLimit

/-- The parameters are kept, and so is a stop that is set (R44). Of an operation whose writes are other fields, the proof is
`⟨⟨rfl, rfl⟩, id⟩`. -/
structure StopKept (s t : State) : Prop extends ParametersKept s t where
  stop : s.h.compulsoryStop = true → t.h.compulsoryStop = true

/-- Whatever next state is answered, it has the parameters and the stop of `s`. -/
structure AnswerKept (s : State) (r : Result) : Prop where
  kept : ∀ t, r = .next t → StopKept s t

theorem ParametersKept.trans {s t u : State} (a : ParametersKept s t) (b : ParametersKept t u) : ParametersKept s u :=
  ⟨b.cfg.trans a.cfg, b.limit.trans a.limit⟩

theorem StopKept.refl (s : State) : StopKept s s := ⟨⟨rfl, rfl⟩, id⟩

theorem StopKept.trans {s t u : State} (a : StopKept s t) (b : StopKept t u) : StopKept s u :=
  ⟨a.toParametersKept.trans b.toParametersKept, b.stop ∘ a.stop⟩

/-- An operation that keeps the handle's stop flag as it is. -/
theorem StopKept.of_eq {s t : State} (cfg : t.cfg = s.cfg) (limit : t.h.transferChunkLimit = s.h.transferChunkLimit)
    (stop : t.h.compulsoryStop = s.h.compulsoryStop) : StopKept s t :=
  ⟨⟨cfg, limit⟩, stop.trans⟩

theorem stopKept_of_portFrame {s t : State} (f : PortFrame s t) : StopKept s t :=
  .of_eq f.cfg (by rw [f.h]) (by rw [f.h])

theorem stopKept_of_commandFrame {s t : State} (f : CommandFrame s t) : StopKept s t :=
  .of_eq f.cfg (by rw [f.h]) (by rw [f.h])

theorem stopKept_of_midwayFrame {s t : State} (f : MidwayFrame s t) : StopKept s t :=
  ⟨⟨f.cfg, by rw [f.h]⟩, f.stopKept⟩

theorem stopKept_of_entryFrame {s t : State} (f : EntryFrame s t) : StopKept s t :=
  .of_eq f.cfg (by rw [f.h]) (by rw [f.h])

theorem landing_stopKept (s : State) : StopKept s (landing s) := stopKept_of_midwayFrame (landing_frame s)

theorem fetched_stopKept (s : State) : StopKept s (fetched s) :=
  .of_eq (fetched_cfg s) (by rw [fetched_h]) (by rw [fetched_h])

theorem samplePresence_stopKept (s : State) : StopKept s (samplePresence s) :=
  .of_eq (samplePresence_cfg s) (by rw [samplePresence_h]) (by rw [samplePresence_h])

theorem selectClock_stopKept {f : ClockFreq} {s t : State} (kept : StopKept s t) : StopKept s (selectClock f t) :=
  kept.trans (.of_eq (selectClock_cfg f t) (by rw [selectClock_h]) (by rw [selectClock_h]))

theorem startClock_stopKept {f : ClockFreq} {s t : State} (kept : StopKept s t) : StopKept s (startClock f t) :=
  (selectClock_stopKept kept).trans ⟨⟨rfl, rfl⟩, id⟩

/-! ### Answers -/

section
variable {s t : State}

theorem AnswerKept.next (kept : StopKept s t) : AnswerKept s (.next t) := by
  constructor
  rintro _ ⟨⟩
  exact kept

theorem AnswerKept.fault (f : Fault) : AnswerKept s (.fault f) := ⟨fun _ next => by cases next⟩

theorem AnswerKept.refused (r : Refusal) : AnswerKept s (.refused r) := ⟨fun _ next => by cases next⟩

theorem AnswerKept.after {r : Result} (kept : StopKept s t) (answer : AnswerKept t r) : AnswerKept s r :=
  ⟨fun u next => kept.trans (answer.kept u next)⟩

theorem AnswerKept.ite {c : Prop} {_ : Decidable c} {a b : Result} (yes : AnswerKept s a) (no : AnswerKept s b) :
    AnswerKept s (if c then a else b) := by
  split
  · exact yes
  · exact no

theorem withImage_answerKept {w : Nat} {image : CardRegister w} {k : BitVec w → Result}
    (kept : ∀ v, AnswerKept s (k v)) : AnswerKept s (withImage image k) :=
  .ite (kept _) (.fault _)

theorem stageRca_answerKept {p : Phase} {cmd : Indices → BitVec 6} (kept : StopKept s t) :
    AnswerKept s (stageRca p cmd t) :=
  withImage_answerKept fun _ => .next (kept.trans ⟨⟨rfl, rfl⟩, id⟩)

theorem recoveryReturn_stopKept (s : State) : StopKept s (recoveryReturn s) := ⟨⟨rfl, rfl⟩, id⟩

/-- Recovery ends with the stop flag as it was (R44, R400). -/
theorem recover_answerKept (kept : StopKept s t) : AnswerKept s (recover t) := by
  have entered : StopKept s (recoveryEntry t) := kept.trans (stopKept_of_entryFrame (recoveryEntry_frame t))
  rcases recover_cases t with ⟨-, poll⟩ | ⟨-, back⟩
  · rw [poll]
    exact stageRca_answerKept entered
  · rw [back]
    exact .next (entered.trans (recoveryReturn_stopKept _))

theorem raise_answerKept {e : ErrorKind} (kept : StopKept s t) : AnswerKept s (raise e t) :=
  recover_answerKept (kept.trans ⟨⟨rfl, rfl⟩, id⟩)

end

/-! ### Wire commands -/

theorem andThen_stopKept {s : State} {r : Option ErrorKind × State} {k : State → Option ErrorKind × State}
    (first : StopKept s r.2) (rest : ∀ t, StopKept t (k t).2) : StopKept s (andThen r k).2 := by
  rcases andThen_cases r k with ⟨e, -, h⟩ | ⟨-, h⟩ <;> rw [h]
  · exact first
  · exact first.trans (rest _)

theorem issue_stopKept (cmd : Indices → BitVec 6) (arg : Word) (kind : RespKind) (tc : TimeoutClass) (s : State) :
    StopKept s (issue cmd arg kind tc s).2 := stopKept_of_portFrame (issue_frame ..)

theorem issueR1_stopKept (cmd : Indices → BitVec 6) (arg : Word) (kind : RespKind) (tc : TimeoutClass) (excl : Word)
    (s : State) : StopKept s (issueR1 cmd arg kind tc excl s).2 := stopKept_of_portFrame (issueR1_frame ..)

theorem readRsp_stopKept (s : State) : StopKept s (readRsp s).2 := stopKept_of_portFrame (readRsp_frame s)

theorem readImage_stopKept (s : State) : StopKept s (readImage s).2 := stopKept_of_portFrame (readImage_frame s)

theorem readRegData_stopKept {n : Nat} {store : List Byte → State → State} (kept : ∀ bytes t, StopKept t (store bytes t))
    (s : State) : StopKept s (readRegData n store s).2 :=
  andThen_stopKept (stopKept_of_portFrame (dataWait_frame ..)) fun _ =>
    (stopKept_of_portFrame ((logCall_frame ..).trans (drawBytes_frame ..))).trans <|
      (kept ..).trans (stopKept_of_portFrame (dataWait_frame ..))

theorem command_answerKept {announces : Bool} {body : State → Option ErrorKind × State} {s : State}
    (kept : StopKept s (body s).2) : AnswerKept s (command announces body s) :=
  .ite (.fault _) (.next (kept.trans ⟨⟨rfl, rfl⟩, id⟩))

/-- A command with a response to retrieve. -/
theorem issue_command_answerKept {announces : Bool} {cmd : Indices → BitVec 6} {arg : Word} {kind : RespKind}
    {tc : TimeoutClass} {s : State} {k : State → Option ErrorKind × State} (kept : ∀ t, StopKept t (k t).2) :
    AnswerKept s (command announces (fun s => andThen (issue cmd arg kind tc s) k) s) :=
  command_answerKept (andThen_stopKept (issue_stopKept ..) kept)

/-- A command with something to do after its R1 check. -/
theorem issueR1_command_answerKept {announces : Bool} {cmd : Indices → BitVec 6} {arg excl : Word} {kind : RespKind}
    {tc : TimeoutClass} {s : State} {k : State → Option ErrorKind × State} (kept : ∀ t, StopKept t (k t).2) :
    AnswerKept s (command announces (fun s => andThen (issueR1 cmd arg kind tc excl s) k) s) :=
  command_answerKept (andThen_stopKept (issueR1_stopKept ..) kept)

theorem dataCommand_answerKept (cmd : Indices → BitVec 6) (dir : Direction) (n : Nat) (arg : Word) (s : State) :
    AnswerKept s (dataCommand cmd dir n arg s) := by
  refine ⟨fun t next => ?_⟩
  obtain ⟨-, -, rfl⟩ := dataCommand_next next
  exact (stopKept_of_commandFrame ((forgetCopies_frame s).trans
    (andThen_frame (issueR1_frame ..).command fun _ => dataPhase_frame ..))).trans ⟨⟨rfl, rfl⟩, id⟩

/-- R185 to R207: no wire command changes a parameter or clears a stop. -/
theorem exec_wire_answerKept {i : Instr} (wire : isWire i = true) (s : State) : AnswerKept s (exec i s) := by
  cases i with
  | cmd0 => exact command_answerKept (issue_stopKept ..)
  | cmd7 | cmd16 | cmd55 | acmd42 => exact command_answerKept (issueR1_stopKept ..)
  | cmd2 | cmd9 => exact issue_command_answerKept fun t => (readImage_stopKept t).trans ⟨⟨rfl, rfl⟩, id⟩
  | cmd1 | cmd3Sd | cmd8 | acmd41 | cmd12 | cmd13 =>
    exact issue_command_answerKept fun t => (readRsp_stopKept t).trans ⟨⟨rfl, rfl⟩, id⟩
  | cmd4 => exact issue_command_answerKept fun _ => ⟨⟨rfl, rfl⟩, id⟩
  | cmd3Mmc | acmd6 => exact issueR1_command_answerKept fun _ => ⟨⟨rfl, rfl⟩, id⟩
  | acmd13 | acmd22 | acmd51 =>
    exact issueR1_command_answerKept (readRegData_stopKept fun _ _ => ⟨⟨rfl, rfl⟩, id⟩)
  | cmd17 | cmd18 | cmd24 | cmd25 => exact dataCommand_answerKept ..
  | _ => cases wire

/-- A row of R132 that an index finds is a wire command. -/
theorem isWire_of_lookup {rows : List (BitVec 6 × Instr)} {index : BitVec 6} {i : Instr}
    (wire : ∀ row ∈ rows, isWire row.2 = true) (found : rows.lookup index = some i) : isWire i = true := by
  obtain ⟨before, after, rfl, -⟩ := List.lookup_eq_some_iff.1 found
  exact wire (index, i) (List.mem_append_right _ List.mem_cons_self)

theorem isWire_cmdRows (t : Indices) (arg : Word) : ∀ row ∈ cmdRows t arg, isWire row.2 = true := by
  unfold cmdRows
  split <;> simp [isWire]

theorem isWire_acmdRows (t : Indices) (arg : Word) : ∀ row ∈ acmdRows t arg, isWire row.2 = true := by
  simp [acmdRows, isWire]

/-- R130, R131: a frame decodes to a wire command, never to a request. -/
theorem isWire_of_decode_wire {t : Indices} {app : Bool} {f : Frame} {i : Instr} (read : decode t (.wire app f) = .ok i) :
    isWire i = true := by
  simp only [decode, decodeFrame] at read
  split at read
  case isTrue => cases read
  case isFalse =>
    split at read
    case h_2 => cases read
    case h_1 found =>
      obtain rfl := Except.ok.inj read
      rcases Option.or_eq_some_iff.1 found with announced | ⟨-, plain⟩
      · exact isWire_of_lookup (isWire_acmdRows t f.arg) (Option.ite_none_right_eq_some.1 announced).2
      · exact isWire_of_lookup (isWire_cmdRows t f.arg) plain

/-! ### Requests -/

theorem accept_answerKept {k : State → Result} (kept : ∀ t, AnswerKept t (k t)) (s : State) :
    AnswerKept s (accept k s) :=
  .ite (.refused _) (.ite (.refused _) (.after (landing_stopKept s) (kept _)))

theorem startTransfer_stopKept (dir : Direction) (start count buf len : Nat) (s : State) :
    StopKept s (startTransfer dir start count buf len s) :=
  .trans (t := startClock .fXfer (enterPhase .xBurst (beginOp .xCheck s)))
    (startClock_stopKept ⟨⟨rfl, rfl⟩, id⟩) ⟨⟨rfl, rfl⟩, id⟩

theorem admitTransfer_answerKept (dir : Direction) (start count buf len : Nat) (s : State) :
    AnswerKept s (admitTransfer dir start count buf len s) :=
  .ite (.next ⟨⟨rfl, rfl⟩, id⟩) (.ite (.refused _) (.next (startTransfer_stopKept ..)))

theorem transfer_answerKept (dir : Direction) (start count buf len : Nat) (s : State) :
    AnswerKept s (transfer dir start count buf len s) := by
  have landed := landing_stopKept s
  unfold transfer
  refine .ite (.refused _) ?_
  split
  case h_1 => exact .next ⟨⟨rfl, rfl⟩, id⟩
  case h_2 =>
    dsimp only
    split
    case h_1 => exact .next (landed.trans ⟨⟨rfl, rfl⟩, id⟩)
    case h_2 => exact .after landed (admitTransfer_answerKept ..)

theorem isPresentEffect_stopKept (s : State) : StopKept s (isPresentEffect s) :=
  (samplePresence_stopKept s).trans ((landing_stopKept _).trans ⟨⟨rfl, rfl⟩, id⟩)

/-- Only MOUNT and UNMOUNT are requests that may clear a stop. -/
theorem exec_answerKept {i : Instr} (noMount : ∀ hostV2 volt, i ≠ .mount hostV2 volt) (noUnmount : i ≠ .unmount)
    (s : State) : AnswerKept s (exec i s) := by
  cases i with
  | mount => exact absurd rfl (noMount _ _)
  | unmount => exact absurd rfl noUnmount
  | read | write => exact accept_answerKept (fun _ => transfer_answerKept ..) s
  | getGeometry | getMediaKind | getWp =>
    dsimp only [exec, execGetGeometry, execGetMediaKind, execGetWp]
    refine accept_answerKept (fun _ => ?_) s
    exact .next ⟨⟨rfl, rfl⟩, id⟩
  | isPresent => exact accept_answerKept (fun t => .next (isPresentEffect_stopKept t)) s
  | requestStop => exact .ite (.refused _) (.ite (.next ⟨⟨rfl, rfl⟩, fun _ => rfl⟩) (.next ⟨⟨rfl, rfl⟩, fun _ => rfl⟩))
  | lockUnlock | standby | active | reservedRequest => exact .refused _
  | _ => exact exec_wire_answerKept rfl s

theorem mountEntry_parametersKept (hostV2 : Bool) (volt : BitVec 9) (s : State) :
    ParametersKept s (mountEntry hostV2 volt s) := by
  have reset : ParametersKept s (resetCardFields (findCard (beginOp .mReset s))) := ⟨rfl, rfl⟩
  have landed := reset.trans ((samplePresence_stopKept _).trans (landing_stopKept _)).toParametersKept
  unfold mountEntry
  dsimp only
  split
  case isTrue => exact landed.trans ⟨by simp [startReset], by simp [startReset]⟩
  case isFalse => exact landed.trans ⟨rfl, rfl⟩

/-- A request with an accepted effect keeps the parameters when the effect does. -/
theorem accept_parametersKept {effect : State → State} (kept : ∀ t, ParametersKept t (effect t)) {s t : State}
    (next : accept (fun s => .next (effect s)) s = .next t) : ParametersKept s t := by
  unfold accept at next
  split at next
  case isTrue => cases next
  case isFalse =>
    split at next
    case isTrue => cases next
    case isFalse =>
      cases next
      exact (landing_stopKept s).toParametersKept.trans (kept _)

/-- R435: no instruction changes a parameter. -/
theorem exec_parametersKept {i : Instr} {s t : State} (next : exec i s = .next t) : ParametersKept s t := by
  by_cases mount : ∃ hostV2 volt, i = .mount hostV2 volt
  · obtain ⟨hostV2, volt, rfl⟩ := mount
    exact accept_parametersKept (mountEntry_parametersKept hostV2 volt) next
  by_cases unmount : i = .unmount
  · subst unmount
    exact accept_parametersKept (effect := unmountEffect) (fun _ => ⟨rfl, rfl⟩) next
  exact (exec_answerKept (fun v2 volt is => mount ⟨v2, volt, is⟩) unmount s).kept t next |>.toParametersKept

/-! ### The control steps of a mount -/

theorem startOcrSd_answerKept {s t : State} (kept : StopKept s t) : AnswerKept s (startOcrSd t) :=
  stageRca_answerKept (kept.trans ⟨⟨rfl, rfl⟩, id⟩)

theorem idleReached_answerKept (s : State) : AnswerKept s (idleReached s) := by
  unfold idleReached
  split
  · exact .ite (.next ⟨⟨rfl, rfl⟩, id⟩) (startOcrSd_answerKept ⟨⟨rfl, rfl⟩, id⟩)
  · exact startOcrSd_answerKept (.refl s)
  · exact .next ⟨⟨rfl, rfl⟩, id⟩

theorem afterReset_answerKept : ∀ r s, AnswerKept s (afterReset r s)
  | .ok, s => idleReached_answerKept s
  | .failed _, s => .ite (raise_answerKept (.refl s)) (.next ⟨⟨rfl, rfl⟩, id⟩)

theorem afterIfCond_answerKept (r : CmdResult) (s : State) : AnswerKept s (afterIfCond r s) := by
  unfold afterIfCond
  split
  · exact .next ⟨⟨rfl, rfl⟩, id⟩
  · refine withImage_answerKept fun _ => ?_
    exact .ite (raise_answerKept (.refl s)) <|
      .ite (raise_answerKept (.refl s)) (startOcrSd_answerKept ⟨⟨rfl, rfl⟩, id⟩)

theorem afterOcrSd_answerKept : ∀ r s, AnswerKept s (afterOcrSd r s)
  | .failed _, _ => .next ⟨⟨rfl, rfl⟩, id⟩
  | .ok, _ => .ite (.next ⟨⟨rfl, rfl⟩, id⟩) <| withImage_answerKept fun _ =>
      .ite (.next ⟨⟨rfl, rfl⟩, id⟩) (.ite (.next ⟨⟨rfl, rfl⟩, id⟩) (stageRca_answerKept ⟨⟨rfl, rfl⟩, id⟩))

theorem afterOcrMmc_answerKept (r : CmdResult) (s : State) : AnswerKept s (afterOcrMmc r s) := by
  unfold afterOcrMmc
  split
  · exact raise_answerKept (.refl s)
  · refine withImage_answerKept fun _ => ?_
    exact .ite (.next ⟨⟨rfl, rfl⟩, id⟩) <|
      .ite (raise_answerKept ⟨⟨rfl, rfl⟩, id⟩) (.next ⟨⟨rfl, rfl⟩, id⟩)

theorem afterCid_answerKept : ∀ r s, AnswerKept s (afterCid r s)
  | .failed _, s => raise_answerKept (.refl s)
  | .ok, _ => .ite (.next ⟨⟨rfl, rfl⟩, id⟩) (.next ⟨⟨rfl, rfl⟩, id⟩)

theorem afterRca_answerKept (r : CmdResult) (s : State) : AnswerKept s (afterRca r s) := by
  unfold afterRca
  split
  · exact raise_answerKept (.refl s)
  · refine withImage_answerKept fun _ => ?_
    exact .ite (.next ⟨⟨rfl, rfl⟩, id⟩) (.ite (raise_answerKept (.refl s)) (.next ⟨⟨rfl, rfl⟩, id⟩))

theorem toScr_answerKept (s : State) : AnswerKept s (toScr s) :=
  .ite (.next ⟨⟨rfl, rfl⟩, id⟩) (stageRca_answerKept (.refl s))

theorem afterCsd_answerKept (r : CmdResult) (s : State) : AnswerKept s (afterCsd r s) := by
  unfold afterCsd
  split
  · exact raise_answerKept (.refl s)
  · refine withImage_answerKept fun _ => ?_
    exact .ite (.next ⟨⟨rfl, rfl⟩, id⟩) (toScr_answerKept s)

theorem afterDsr_answerKept : ∀ r s, AnswerKept s (afterDsr r s)
  | .failed _, s => raise_answerKept (.refl s)
  | .ok, s => toScr_answerKept s

theorem afterScr_answerKept : ∀ r s, AnswerKept s (afterScr r s)
  | .failed _, s => raise_answerKept (.refl s)
  | .ok, _ => .ite (.next ⟨⟨rfl, rfl⟩, id⟩) (withImage_answerKept fun _ => .next ⟨⟨rfl, rfl⟩, id⟩)

theorem setWriteProtect_stopKept {csd : Image} {s t : State} (kept : StopKept s t) :
    StopKept s (setWriteProtect csd t) := by
  refine kept.trans ?_
  unfold setWriteProtect sampleWriteProtect
  apply StopKept.of_eq <;> split <;> simp

theorem geometry_answerKept (s : State) : AnswerKept s (geometry s) := by
  refine withImage_answerKept fun csd => ?_
  dsimp only
  split
  · exact raise_answerKept ⟨⟨rfl, rfl⟩, id⟩
  · exact stageRca_answerKept (setWriteProtect_stopKept ⟨⟨rfl, rfl⟩, id⟩)

theorem afterSelect_answerKept : ∀ r s, AnswerKept s (afterSelect r s)
  | .failed _, s => raise_answerKept (.refl s)
  | .ok, s =>
      have switched : StopKept s (selectClock .fXfer { s with seq.selected := true }) :=
        selectClock_stopKept ⟨⟨rfl, rfl⟩, id⟩
      .ite (.next (switched.trans ⟨⟨rfl, rfl⟩, id⟩)) (.next (switched.trans ⟨⟨rfl, rfl⟩, id⟩))

theorem toClrStatus_answerKept (s : State) : AnswerKept s (toClrStatus s) :=
  .ite (withImage_answerKept fun _ => .next ⟨⟨rfl, rfl⟩, id⟩) (stageRca_answerKept (.refl s))

theorem afterBlockLen_answerKept : ∀ r s, AnswerKept s (afterBlockLen r s)
  | .failed _, s => raise_answerKept (.refl s)
  | .ok, s => .ite
      (withImage_answerKept fun _ => .ite (stageRca_answerKept (.refl s)) (toClrStatus_answerKept s))
      (toClrStatus_answerKept s)

theorem afterBusWidth_answerKept : ∀ r s, AnswerKept s (afterBusWidth r s)
  | .failed _, s => raise_answerKept (.refl s)
  | .ok, s => .ite (.next ⟨⟨rfl, rfl⟩, id⟩) (toClrStatus_answerKept s)

theorem afterClrStatus_answerKept : ∀ r s, AnswerKept s (afterClrStatus r s)
  | .failed _, s => raise_answerKept (.refl s)
  | .ok, s => .ite (.next ⟨⟨rfl, rfl⟩, id⟩) (stageRca_answerKept (.refl s))

theorem afterSdStatus_answerKept : ∀ r s, AnswerKept s (afterSdStatus r s)
  | .failed _, s => raise_answerKept (.refl s)
  | .ok, _ => .ite (.next ⟨⟨rfl, rfl⟩, id⟩)
      (withImage_answerKept fun _ => withImage_answerKept fun _ => .next ⟨⟨rfl, rfl⟩, id⟩)

/-! ### The control steps of a transfer -/

theorem withRequest_answerKept {k : TransferRequest → State → Result} {s : State} (kept : ∀ q, AnswerKept s (k q s)) :
    AnswerKept s (withRequest k s) := by
  unfold withRequest
  split
  · exact .fault _
  · exact kept _

/-- R320, R321: a stop that ends a transfer stays set. -/
theorem burstBoundary_answerKept (s : State) : AnswerKept s (burstBoundary s) := by
  refine withRequest_answerKept fun q => .ite (.next ⟨⟨rfl, rfl⟩, id⟩) (.ite (.next ⟨⟨rfl, rfl⟩, id⟩) ?_)
  dsimp only
  split
  · exact .next ⟨⟨rfl, rfl⟩, id⟩
  · exact .next ⟨⟨rfl, rfl⟩, id⟩

theorem failBurst_answerKept (q : TransferRequest) (e : ErrorKind) (s : State) : AnswerKept s (failBurst q e s) :=
  raise_answerKept (stopKept_of_commandFrame (spoilBurst_frame q s))

theorem burstDone_stopKept (q : TransferRequest) (s : State) : StopKept s (burstDone q s) :=
  (stopKept_of_commandFrame (settleBurst_frame q s)).trans ⟨⟨rfl, rfl⟩, id⟩

theorem afterSingle_answerKept : ∀ r s, AnswerKept s (afterSingle r s)
  | .failed _, _ => withRequest_answerKept fun _ => failBurst_answerKept ..
  | .ok, s => withRequest_answerKept fun _ => stageRca_answerKept (.refl s)

theorem afterMulti_answerKept : ∀ r s, AnswerKept s (afterMulti r s)
  | .failed _, _ => withRequest_answerKept fun _ => failBurst_answerKept ..
  | .ok, s => withRequest_answerKept fun _ => .ite (stageRca_answerKept (.refl s)) (.next ⟨⟨rfl, rfl⟩, id⟩)

theorem afterStop_answerKept (r : CmdResult) (s : State) : AnswerKept s (afterStop r s) := by
  refine .ite (recover_answerKept (.refl s)) (withRequest_answerKept fun q => ?_)
  split
  · exact failBurst_answerKept ..
  · split
    · exact failBurst_answerKept ..
    · exact stageRca_answerKept (.refl s)

theorem afterVerified_answerKept (q : TransferRequest) (s : State) : AnswerKept s (afterVerified q s) := by
  unfold afterVerified
  split
  · exact .ite (.next ⟨⟨rfl, rfl⟩, id⟩) (.next (burstDone_stopKept q s))
  · exact .ite (stageRca_answerKept (.refl s)) (.next (burstDone_stopKept q s))

theorem afterVerify_answerKept (r : CmdResult) (s : State) : AnswerKept s (afterVerify r s) := by
  refine withRequest_answerKept fun q => ?_
  split
  · exact failBurst_answerKept ..
  · split
    · exact failBurst_answerKept ..
    · exact .ite (afterVerified_answerKept q s) (failBurst_answerKept ..)

theorem afterWrCount_answerKept : ∀ r s, AnswerKept s (afterWrCount r s)
  | .failed _, _ => withRequest_answerKept fun _ => failBurst_answerKept ..
  | .ok, s => withRequest_answerKept fun q =>
      .ite (.next ⟨⟨rfl, rfl⟩, id⟩) (.ite (failBurst_answerKept ..) (.next (burstDone_stopKept q s)))

/-! ### Every control step -/

theorem afterRecoveryCommand_answerKept (r : CmdResult) (s : State) : AnswerKept s (afterRecoveryCommand r s) :=
  .ite (.next ⟨⟨rfl, rfl⟩, id⟩) (.ite (.next ⟨⟨rfl, rfl⟩, id⟩) (.next ⟨⟨rfl, rfl⟩, id⟩))

theorem advanceAfter_answerKept (r : CmdResult) (s : State) : AnswerKept s (advanceAfter r s) := by
  unfold advanceAfter
  split
  · exact afterReset_answerKept r s
  · exact afterIfCond_answerKept r s
  · exact afterOcrSd_answerKept r s
  · exact afterOcrMmc_answerKept r s
  · exact afterCid_answerKept r s
  · exact afterRca_answerKept r s
  · exact afterCsd_answerKept r s
  · exact afterDsr_answerKept r s
  · exact afterScr_answerKept r s
  · exact afterSelect_answerKept r s
  · exact afterBlockLen_answerKept r s
  · exact afterBusWidth_answerKept r s
  · exact afterClrStatus_answerKept r s
  · exact afterSdStatus_answerKept r s
  · exact afterSingle_answerKept r s
  · exact afterMulti_answerKept r s
  · exact afterStop_answerKept r s
  · exact afterVerify_answerKept r s
  · exact afterWrCount_answerKept r s
  · exact afterRecoveryCommand_answerKept r s
  all_goals exact .fault _

theorem advanceAlone_answerKept (s : State) : AnswerKept s (advanceAlone s) := by
  unfold advanceAlone
  split
  · exact geometry_answerKept s
  · exact .next ⟨⟨rfl, rfl⟩, id⟩
  · exact burstBoundary_answerKept s
  · exact .next ⟨⟨rfl, rfl⟩, id⟩
  all_goals exact .fault _

/-- R44, R435: the engine's own step changes no parameter and clears no stop. -/
theorem advance_answerKept (s : State) : AnswerKept s (advance s) := by
  unfold advance
  split
  · exact advanceAfter_answerKept _ s
  · exact advanceAlone_answerKept s

/-! ### Arrivals -/

theorem touchBuffer_stopKept (q : TransferRequest) (s : State) : StopKept s (touchBuffer q s) :=
  (stopKept_of_commandFrame (spoilBuffer_frame q.buf (512 * q.count) s)).trans ⟨⟨rfl, rfl⟩, id⟩

theorem hostStore_stopKept (addr : BitVec 64) (b : Byte) (s : State) : StopKept s (hostStore addr b s) := by
  unfold hostStore
  dsimp only
  split
  · exact touchBuffer_stopKept ..
  · exact ⟨⟨rfl, rfl⟩, id⟩

theorem hostLoad_stopKept (addr : BitVec 64) (s : State) : StopKept s (hostLoad addr s) := by
  unfold hostLoad
  split
  · exact touchBuffer_stopKept ..
  · exact .refl s

theorem supply_stopKept (on : Bool) (s : State) : StopKept s (supply on s) := by
  cases on <;> exact ⟨⟨rfl, rfl⟩, id⟩

/-- Only driver init and finalize are arrivals that may clear a stop. -/
theorem arrive_answerKept {i : Input} (noInit : i ≠ .driverInit) (noFinalize : i ≠ .finalize) (s : State) :
    AnswerKept s (arrive i s) := by
  cases i with
  | request => exact .next (.refl s)
  | callback => exact .next (stopKept_of_midwayFrame (callback_frame ..))
  | store => exact .next (hostStore_stopKept ..)
  | load => exact .next (hostLoad_stopKept ..)
  | power => exact .next (supply_stopKept ..)
  | peerDma => exact .next ⟨⟨rfl, rfl⟩, id⟩
  | driverInit => exact absurd rfl noInit
  | finalize => exact absurd rfl noFinalize

/-- R432: finalize changes no parameter. -/
theorem arrive_finalize_parametersKept {s t : State} (next : arrive .finalize s = .next t) : ParametersKept s t := by
  simp only [arrive] at next
  split at next
  case isTrue => cases next
  case isFalse => cases next; exact ⟨rfl, rfl⟩

/-- R435: driver init leaves the configuration. -/
theorem arrive_driverInit_cfg {s t : State} (next : arrive .driverInit s = .next t) : t.cfg = s.cfg := by
  simp only [arrive] at next
  split at next
  case isTrue => cases next
  case isFalse => cases next; exact samplePresence_cfg _

/-! ### Every step -/

/-- What a step can do to the parameters and the stop: nothing, MOUNT's or UNMOUNT's clearing, finalize's, or driver
init. -/
theorem step_settings_cases {s t : State} (next : step s = .next t) :
    StopKept s t ∨
    (ParametersKept s t ∧
      ((∃ w, requested s = some w ∧
        ((∃ v2 volt, decode s.cfg.index (.request w) = .ok (.mount v2 volt)) ∨
        decode s.cfg.index (.request w) = .ok .unmount)) ∨
      ∃ rest, s.inputs = some .finalize :: rest)) ∨
    (t.cfg = s.cfg ∧ ∃ rest, s.inputs = some .driverInit :: rest) := by
  have fetch := fetched_stopKept s
  obtain ⟨-, request | frame | arrival | control | idle⟩ := step_cases next
  · obtain ⟨w, rest, listed, ran⟩ := request
    have written : requested s = some w := by rw [requested, listed]
    by_cases mount : ∃ v2 volt, decodeRequest w = .mount v2 volt
    · obtain ⟨v2, volt, read⟩ := mount
      exact .inr (.inl ⟨fetch.toParametersKept.trans (exec_parametersKept ran),
        .inl ⟨w, written, .inl ⟨v2, volt, congrArg Except.ok read⟩⟩⟩)
    by_cases unmount : decodeRequest w = .unmount
    · exact .inr (.inl ⟨fetch.toParametersKept.trans (exec_parametersKept ran),
        .inl ⟨w, written, .inr (congrArg Except.ok unmount)⟩⟩)
    exact .inl (fetch.trans ((exec_answerKept (fun v2 volt read => mount ⟨v2, volt, read⟩) unmount _).kept t ran))
  · obtain ⟨f, i, -, read, ran⟩ := frame
    exact .inl (fetch.trans ((exec_wire_answerKept (isWire_of_decode_wire read) _).kept t ran))
  · obtain ⟨i, rest, listed, -, arrived⟩ := arrival
    by_cases init : i = .driverInit
    · subst init
      exact .inr (.inr ⟨(arrive_driverInit_cfg arrived).trans fetch.cfg, rest, listed⟩)
    by_cases final : i = .finalize
    · subst final
      exact .inr (.inl ⟨fetch.toParametersKept.trans (arrive_finalize_parametersKept arrived), .inr ⟨rest, listed⟩⟩)
    exact .inl (fetch.trans ((arrive_answerKept init final _).kept t arrived))
  · obtain ⟨-, -, moved⟩ := control
    exact .inl (fetch.trans ((advance_answerKept _).kept t moved))
  · obtain ⟨-, -, rfl⟩ := idle
    exact .inl fetch

/-- Settles O53: a step keeps parameters and stop, or is one of the four that clear it; of these only driver init sets the
chunk limit. -/
theorem stopFlagAndParameters : Obligations.StopFlagAndParameters := by
  intro s t next
  rcases step_settings_cases next with kept | ⟨kept, clearer⟩ | ⟨cfg, rest, init⟩
  · exact ⟨kept.cfg, fun changed => absurd kept.limit changed,
      fun set cleared => absurd (kept.stop set) (Bool.eq_false_iff.1 cleared)⟩
  · exact ⟨kept.cfg, fun changed => absurd kept.limit changed,
      fun _ _ => clearer.imp_right fun ⟨rest, final⟩ => ⟨rest, .inr final⟩⟩
  · exact ⟨cfg, fun _ => ⟨rest, init⟩, fun _ _ => .inr ⟨rest, .inl init⟩⟩

end Sys2Proof.Proofs
end

section
/-! Decoder and encoder agree (R120–R125, R130–R132): each row of R132 is spelled by its own frame, and each request is read
back from the words of its table. -/

namespace Sys2Proof.Proofs

open Sys2Proof Sys2Proof.Machine Sys2Proof.Laws

/-! ### Frames -/

/-- A frame with start bit 0 and direction bit 1 is spelled from its index (R130). -/
theorem frameHead_of_kind {head : Byte} (kind : head.extractLsb' 6 2 = 1#2) : frameHead (head.extractLsb' 0 6) = head := by
  calc 1#2 ++ head.extractLsb' 0 6
      = head.extractLsb' 6 2 ++ head.extractLsb' 0 6 := by rw [kind]
    _ = head.extractLsb' 0 8 := BitVec.extractLsb'_append_extractLsb'_eq_extractLsb' rfl
    _ = head := BitVec.extractLsb'_eq_self

/-- The plain rows of R132: each is well formed and spelled by its own index. -/
theorem cmdRows_spelled (t : Indices) (arg : Word) :
    ∀ row ∈ cmdRows t arg, row.2.wf = true ∧ encode t row.2 = wireCode row.1 arg := by
  unfold cmdRows
  split
  case isTrue assigns => simp [Instr.wf, encode, assigns]
  case isFalse assigns => simp [Instr.wf, encode, assigns]

/-- The application-specific rows of R132, likewise. -/
theorem acmdRows_spelled (t : Indices) (arg : Word) :
    ∀ row ∈ acmdRows t arg, row.2.wf = true ∧ encode t row.2 = appCode row.1 arg := by
  simp [acmdRows, Instr.wf, encode]

/-- What a lookup finds is a row of its key. -/
theorem mem_of_lookup {rows : List (BitVec 6 × Instr)} {index : BitVec 6} {i : Instr}
    (found : rows.lookup index = some i) : (index, i) ∈ rows := by
  obtain ⟨before, after, rfl, -⟩ := List.lookup_eq_some_iff.1 found
  exact List.mem_append_right _ List.mem_cons_self

/-- What the decoder reads from a frame: a host frame, and a row of its index, announced only where the frame is. -/
theorem decode_wire_eq_ok {t : Indices} {app : Bool} {f : Frame} {i : Instr} (read : decode t (.wire app f) = .ok i) :
    f.head.extractLsb' 6 2 = 1#2 ∧
      ((app = true ∧ (f.head.extractLsb' 0 6, i) ∈ acmdRows t f.arg) ∨ (f.head.extractLsb' 0 6, i) ∈ cmdRows t f.arg) := by
  simp only [decode, decodeFrame] at read
  split at read
  case isTrue => cases read
  case isFalse kind =>
    split at read
    case h_2 => cases read
    case h_1 found =>
      obtain rfl := Except.ok.inj read
      refine ⟨not_not.1 kind, ?_⟩
      rcases Option.or_eq_some_iff.1 found with announced | ⟨-, plain⟩
      · obtain ⟨isApp, row⟩ := Option.ite_none_right_eq_some.1 announced
        exact .inl ⟨isApp, mem_of_lookup row⟩
      · exact .inr (mem_of_lookup plain)

/-- R130–R132: a frame that is read is the frame of the instruction it gives. -/
theorem encode_of_decode_wire {t : Indices} {app : Bool} {f : Frame} {i : Instr} (read : decode t (.wire app f) = .ok i) :
    i.wf = true ∧ ∃ announced, encode t i = .wire announced f ∧ (announced = true → app = true) := by
  obtain ⟨kind, row⟩ := decode_wire_eq_ok read
  have head := frameHead_of_kind kind
  rcases row with ⟨isApp, row⟩ | row
  · obtain ⟨wf, spelled⟩ := acmdRows_spelled t f.arg _ row
    exact ⟨wf, true, by rw [spelled, appCode, head], fun _ => isApp⟩
  · obtain ⟨wf, spelled⟩ := cmdRows_spelled t f.arg _ row
    exact ⟨wf, false, by rw [spelled, wireCode, head], nofun⟩

/-- R122, R127: a request is read as a well-formed instruction. -/
theorem decodeRequest_wf (w : RequestWords) : (decodeRequest w).wf = true := by
  obtain ⟨i, read, forms⟩ := requestDecoderIsTotal .reference w
  obtain rfl := Except.ok.inj read
  rcases forms with ⟨reserved, form⟩ | ⟨-, -, form⟩ | ⟨-, form⟩ | ⟨-, form⟩ | ⟨-, form⟩ | ⟨-, form⟩ | ⟨-, form⟩ |
    ⟨-, form⟩ | ⟨-, form⟩ | ⟨-, form⟩ | ⟨-, form⟩ | ⟨-, form⟩ | ⟨-, form⟩ <;> rw [form]
  case inl => exact reserved
  all_goals rfl

/-- Settles O2: a request by its forms, a frame by the row that its index finds. -/
theorem decodedFramesAreKept : Obligations.DecodedFramesAreKept := by
  refine fun t => ⟨fun c i read => ?_, fun app f i read => (encode_of_decode_wire read).2⟩
  cases c with
  | request w =>
    obtain rfl := Except.ok.inj read
    exact decodeRequest_wf w
  | wire app f => exact (encode_of_decode_wire read).1

/-- Settles O5: by the decoder's reading of a spelled head; an announced index looks at the ACMD rows first. -/
theorem acmdToldByAnnouncement : Obligations.AcmdToldByAnnouncement := by
  intro t index arg
  refine ⟨fun i row => decode_acmd row, fun i => ⟨fun read => ?_, fun row => decode_cmd row⟩, fun none => ?_⟩
  · change decodeFrame t false ⟨frameHead index, arg⟩ = _ at read
    rw [decodeFrame_frameHead] at read
    cases row : decodeCmd t index arg with
    | none => simp [row] at read
    | some j => simpa [row] using read
  · change decodeFrame t true ⟨frameHead index, arg⟩ = decodeFrame t false ⟨frameHead index, arg⟩
    simp [decodeFrame_frameHead, none]

/-- Settles O6: each word by evaluation of the decoder, the reference configuration by unfolding. -/
theorem decodeSanityWords : Obligations.DecodeSanityWords :=
  ⟨by decide, by decide, by decide, by decide, by decide, rfl, rfl⟩

/-! ### Encoding and back -/

/-- A frame that the encoder spells as its family says is read back. -/
theorem decode_encode_of_spelling {t : Indices} (distinct : t.wf = true) {i : Instr} (wf : i.wf = true)
    (spelling : Spelling.Statement i) {app : Bool} {f : Frame} (spelled : encode t i = .wire app f) :
    decode t (encode t i) = .ok i := by
  have row := spelling t distinct wf
  rw [spelled] at row ⊢
  obtain ⟨head, arg⟩ := f
  obtain ⟨kind, found⟩ := row
  dsimp only at kind found
  rw [← frameHead_of_kind kind]
  cases app with
  | true => exact decode_acmd found
  | false => exact decode_cmd found

/-- The two halves of a 64-bit operand, put together again (R123). -/
theorem halves_append (v : BitVec 64) : v.extractLsb' 32 32 ++ v.extractLsb' 0 32 = v :=
  (BitVec.extractLsb'_append_extractLsb'_eq_extractLsb' rfl).trans BitVec.extractLsb'_eq_self

/-- R124, R125: MOUNT's mode bit and voltage are read back. -/
theorem decodeRequest_mountWords (v2 : Bool) (volt : BitVec 9) (a1 a2 a3 a4 : Word) :
    decodeRequest ⟨0#23 ++ BitVec.ofBool v2 ++ 1#8, 0#8 ++ volt ++ 0#15, a1, a2, a3, a4⟩ = .mount v2 volt := by
  have window : (0#8 ++ volt ++ 0#15).extractLsb' 15 9 = volt := by
    simp only [← BitVec.toNat_inj, BitVec.extractLsb'_toNat, BitVec.toNat_append, Nat.shiftRight_eq_div_pow,
      Nat.shiftLeft_eq]
    have := volt.isLt
    simp
    omega
  have mode : (0#23 ++ BitVec.ofBool v2 ++ 1#8).getLsbD 8 = v2 := by cases v2 <;> decide
  have opcode : (0#23 ++ BitVec.ofBool v2 ++ 1#8).extractLsb' 0 8 = 1#8 := by cases v2 <;> decide
  have rest : (0#23 ++ BitVec.ofBool v2 ++ 1#8).extractLsb' 9 23 = 0#23 := by cases v2 <;> decide
  exact (decodeRequest_mount (r := ⟨_, _, a1, a2, a3, a4⟩) opcode rest).trans (congrArg₂ Instr.mount mode window)

/-- Settles O1: a wire command by the row that its frame names, a request by the decoder's reading of its words. -/
theorem decodeEncodeRoundTrip : Obligations.DecodeEncodeRoundTrip := by
  intro t distinct i wf
  cases i with
  | mount v2 volt => exact congrArg Except.ok (decodeRequest_mountWords v2 volt ..)
  | read start count buf len =>
    refine congrArg Except.ok ((decodeRequest_opcode (opcode := 3#8) (by decide) rfl).trans ?_)
    exact congrArg (fun b => Instr.read start count b len) (halves_append buf)
  | write start count buf len =>
    refine congrArg Except.ok ((decodeRequest_opcode (opcode := 4#8) (by decide) rfl).trans ?_)
    exact congrArg (fun b => Instr.write start count b len) (halves_append buf)
  | lockUnlock op buf len =>
    refine congrArg Except.ok ((decodeRequest_opcode (opcode := 10#8) (by decide) rfl).trans ?_)
    exact congrArg (fun b => Instr.lockUnlock op b len) (halves_append buf)
  | unmount | getGeometry | getMediaKind | getWp | isPresent | requestStop | standby | active => rfl
  | reservedRequest w => exact congrArg Except.ok ((decodeRequest_reserved_iff ⟨w, _, _, _, _, _⟩).2 wf)
  | cmd0 arg => exact decode_encode_of_spelling distinct wf (Spelling.cmd0 arg) rfl
  | cmd1 arg => exact decode_encode_of_spelling distinct wf (Spelling.cmd1 arg) rfl
  | cmd2 arg => exact decode_encode_of_spelling distinct wf (Spelling.cmd2 arg) rfl
  | cmd3Sd arg => exact decode_encode_of_spelling distinct wf (Spelling.cmd3Sd arg) rfl
  | cmd3Mmc arg => exact decode_encode_of_spelling distinct wf (Spelling.cmd3Mmc arg) rfl
  | cmd4 arg => exact decode_encode_of_spelling distinct wf (Spelling.cmd4 arg) rfl
  | cmd7 arg => exact decode_encode_of_spelling distinct wf (Spelling.cmd7 arg) rfl
  | cmd8 arg => exact decode_encode_of_spelling distinct wf (Spelling.cmd8 arg) rfl
  | cmd9 arg => exact decode_encode_of_spelling distinct wf (Spelling.cmd9 arg) rfl
  | cmd12 arg => exact decode_encode_of_spelling distinct wf (Spelling.cmd12 arg) rfl
  | cmd13 arg => exact decode_encode_of_spelling distinct wf (Spelling.cmd13 arg) rfl
  | cmd16 arg => exact decode_encode_of_spelling distinct wf (Spelling.cmd16 arg) rfl
  | cmd17 arg => exact decode_encode_of_spelling distinct wf (Spelling.cmd17 arg) rfl
  | cmd18 arg => exact decode_encode_of_spelling distinct wf (Spelling.cmd18 arg) rfl
  | cmd24 arg => exact decode_encode_of_spelling distinct wf (Spelling.cmd24 arg) rfl
  | cmd25 arg => exact decode_encode_of_spelling distinct wf (Spelling.cmd25 arg) rfl
  | cmd55 arg => exact decode_encode_of_spelling distinct wf (Spelling.cmd55 arg) rfl
  | acmd6 arg => exact decode_encode_of_spelling distinct wf (Spelling.acmd6 arg) rfl
  | acmd13 arg => exact decode_encode_of_spelling distinct wf (Spelling.acmd13 arg) rfl
  | acmd22 arg => exact decode_encode_of_spelling distinct wf (Spelling.acmd22 arg) rfl
  | acmd41 arg => exact decode_encode_of_spelling distinct wf (Spelling.acmd41 arg) rfl
  | acmd42 arg => exact decode_encode_of_spelling distinct wf (Spelling.acmd42 arg) rfl
  | acmd51 arg => exact decode_encode_of_spelling distinct wf (Spelling.acmd51 arg) rfl

end Sys2Proof.Proofs
end

section
/-! Every wire command in one of two shapes: `issue` and then what its rule says of the response (R174–R207), or a data
command (R197–R200); and what the first shape can change. -/

namespace Sys2Proof.Proofs

open Sys2Proof Sys2Proof.Machine Sys2Proof.Claims Sys2Proof.Laws

/-! ### The shape of a command -/

/-- Only an accepted CMD55 announces the next command (R131, R180). -/
def announces : Instr → Bool
  | .cmd55 _ => true
  | _ => false

/-- What a wire command without a sector data phase does after an accepted `issue`: the response, its check, the register
data, the field of its rule (R174–R181, R185–R207). -/
def followUp : Instr → State → Option ErrorKind × State
  | .cmd1 _ | .acmd41 _ => respR3
  | .cmd2 _ => respCid
  | .cmd3Sd _ => respR6
  | .cmd3Mmc _ => fun s => andThen (respR1 0#32 s) fun t => (none, { t with h.rca := .holding t.cfg.mmcRca })
  | .cmd4 _ => fun s => (none, { s with h.dsr := .holding s.cfg.dsrValue })
  | .cmd7 _ => fun s => respR1 (bit s.cfg.pos.r1.cardLocked) s
  | .cmd8 _ => respR7
  | .cmd9 _ => respCsd
  | .cmd12 _ | .cmd13 _ => fun s => (none, takeR1 s)
  | .cmd16 _ | .cmd55 _ | .acmd42 _ => respR1 0#32
  | .acmd6 _ => fun s => andThen (respR1 0#32 s) fun t => (none, selectBus .four t)
  | .acmd13 _ => fun s => andThen (respR1 0#32 s) (readRegData 64 storeSdStatus)
  | .acmd22 _ => fun s => andThen (respR1 0#32 s) (readRegData 4 storeWrCount)
  | .acmd51 _ => fun s => andThen (respR1 0#32 s) (readRegData 8 storeScr)
  | _ => fun s => (none, s)

/-- An error that is passed on twice is passed on once. -/
theorem andThen_assoc (r : Option ErrorKind × State) (j k : State → Option ErrorKind × State) :
    andThen (andThen r j) k = andThen r fun s => andThen (j s) k := by
  obtain ⟨_ | e, s⟩ := r <;> rfl

theorem andThen_pure (r : Option ErrorKind × State) : andThen r (fun s => (none, s)) = r := by
  obtain ⟨_ | e, s⟩ := r <;> rfl

theorem command_congr {a : Bool} {body other : State → Option ErrorKind × State} {s : State} (same : body s = other s) :
    command a body s = command a other s := by
  rw [command, command, same]

/-- What follows an `issue` may be chosen by the state it answers with. -/
theorem andThen_congr {r : Option ErrorKind × State} {j k : State → Option ErrorKind × State} (same : j r.2 = k r.2) :
    andThen r j = andThen r k := by
  obtain ⟨_ | e, s⟩ := r
  · exact same
  · rfl

/-- A wire command without a sector data phase is its `issue` and what follows it. -/
theorem exec_of_issue {i : Instr} {s : State} {cmd : Indices → BitVec 6} {arg : Word} {kind : RespKind}
    {tc : TimeoutClass} (issues : wireIssue i = some (cmd, arg, kind, tc)) (noData : isData i s = none) :
    exec i s = command (announces i) (fun s => andThen (issue cmd arg kind tc s) (followUp i)) s := by
  cases i with
  | cmd0 => cases issues; exact command_congr (andThen_pure _).symm
  | cmd1 | cmd2 | cmd3Sd | cmd4 | cmd8 | cmd9 | cmd12 | cmd13 | cmd16 | cmd55 | acmd41 | acmd42 => cases issues; rfl
  | cmd3Mmc | acmd6 | acmd13 | acmd22 | acmd51 =>
    cases issues
    simp only [exec, execCmd3Mmc, execAcmd6, execAcmd13, execAcmd22, execAcmd51, issueR1, andThen_assoc]
    rfl
  | cmd7 =>
    cases issues
    exact command_congr (andThen_congr (by simp only [followUp, (issue_frame ..).cfg]))
  | cmd17 | cmd18 | cmd24 | cmd25 => cases noData
  | _ => cases issues

/-- A command with a sector data phase is the data command of its direction, size and argument. -/
theorem exec_of_isData {i : Instr} {s : State} {dir : Direction} {n : Nat} {arg : Word}
    (data : isData i s = some (dir, n, arg)) :
    ∃ cmd, wireIssue i = some (cmd, arg, .r1, .cmd) ∧ exec i s = dataCommand cmd dir n arg s := by
  cases i with
  | cmd17 | cmd18 | cmd24 | cmd25 => cases data; exact ⟨_, rfl, rfl⟩
  | _ => cases data

/-- Every wire command is issued. -/
theorem wireIssue_of_isWire {i : Instr} (wire : isWire i = true) : ∃ cmd arg kind tc, wireIssue i = some (cmd, arg, kind, tc) := by
  cases i with
  | mount | unmount | read | write | getGeometry | getMediaKind | getWp | isPresent | requestStop | lockUnlock | standby
  | active | reservedRequest => cases wire
  | _ => exact ⟨_, _, _, _, rfl⟩

/-! ### What a command without a sector data phase changes -/

/-- The parts of the state that `i` may write before its result is kept: the Port's answers and bookkeeping, the status of a
checked command, and the field that its rule names. -/
structure RegisterFrame (i : Instr) (s t : State) : Prop where
  mem : t.mem = s.mem
  card : t.card = s.card
  io : t.io = s.io
  cfg : t.cfg = s.cfg
  inputs : t.inputs = s.inputs
  finalized : t.finalized = s.finalized
  h : t.h = { s.h with
    irqMask := t.h.irqMask, inFlight := t.h.inFlight, lastSts2 := t.h.lastSts2, lastR1 := t.h.lastR1
    ocr := t.h.ocr, cid := t.h.cid, csd := t.h.csd, dsr := t.h.dsr, rca := t.h.rca, scr := t.h.scr
    sdStatus := t.h.sdStatus, ifCond := t.h.ifCond, busWidth := t.h.busWidth }
  ocr : (∀ arg, i ≠ .cmd1 arg) → (∀ arg, i ≠ .acmd41 arg) → t.h.ocr = s.h.ocr
  cid : (∀ arg, i ≠ .cmd2 arg) → t.h.cid = s.h.cid
  csd : (∀ arg, i ≠ .cmd9 arg) → t.h.csd = s.h.csd
  dsr : (∀ arg, i ≠ .cmd4 arg) → t.h.dsr = s.h.dsr
  rca : (∀ arg, i ≠ .cmd3Sd arg) → (∀ arg, i ≠ .cmd3Mmc arg) → t.h.rca = s.h.rca
  scr : (∀ arg, i ≠ .acmd51 arg) → t.h.scr = s.h.scr
  sdStatus : (∀ arg, i ≠ .acmd13 arg) → t.h.sdStatus = s.h.sdStatus
  ifCond : (∀ arg, i ≠ .cmd8 arg) → t.h.ifCond = s.h.ifCond
  busWidth : (∀ arg, i ≠ .acmd6 arg) → t.h.busWidth = s.h.busWidth
  lastR1 : (∃ arg, i = .cmd0 arg ∨ i = .cmd1 arg ∨ i = .cmd2 arg ∨ i = .cmd3Sd arg ∨ i = .cmd4 arg ∨ i = .cmd8 arg ∨
    i = .cmd9 arg ∨ i = .acmd41 arg) → t.h.lastR1 = s.h.lastR1
  seq : t.seq = { s.seq with wrCount := t.seq.wrCount }
  wrCount : (∀ arg, i ≠ .acmd22 arg) → t.seq.wrCount = s.seq.wrCount

theorem RegisterFrame.trans {i : Instr} {s t u : State} (a : RegisterFrame i s t) (b : RegisterFrame i t u) :
    RegisterFrame i s u where
  mem := b.mem.trans a.mem
  card := b.card.trans a.card
  io := b.io.trans a.io
  cfg := b.cfg.trans a.cfg
  inputs := b.inputs.trans a.inputs
  finalized := b.finalized.trans a.finalized
  h := by rw [b.h, a.h]
  ocr := fun m n => (b.ocr m n).trans (a.ocr m n)
  cid := fun m => (b.cid m).trans (a.cid m)
  csd := fun m => (b.csd m).trans (a.csd m)
  dsr := fun m => (b.dsr m).trans (a.dsr m)
  rca := fun m n => (b.rca m n).trans (a.rca m n)
  scr := fun m => (b.scr m).trans (a.scr m)
  sdStatus := fun m => (b.sdStatus m).trans (a.sdStatus m)
  ifCond := fun m => (b.ifCond m).trans (a.ifCond m)
  busWidth := fun m => (b.busWidth m).trans (a.busWidth m)
  lastR1 := fun m => (b.lastR1 m).trans (a.lastR1 m)
  seq := by rw [b.seq, a.seq]
  wrCount := fun m => (b.wrCount m).trans (a.wrCount m)

/-- An operation of the Command Engine that leaves the status word. -/
theorem RegisterFrame.ofPort {s t : State} (f : PortFrame s t) (status : t.h.lastR1 = s.h.lastR1) (i : Instr) :
    RegisterFrame i s t := by
  have hh := f.h
  constructor
  case h => rw [hh]
  case lastR1 => exact fun _ => status
  case seq => rw [f.seq]
  case wrCount => exact fun _ => by rw [f.seq]
  case mem => exact f.mem
  case card => exact f.card
  case io => exact f.io
  case cfg => exact f.cfg
  case inputs => exact f.inputs
  case finalized => exact f.finalized
  all_goals intros; rw [hh]

theorem andThen_registerFrame {i : Instr} {s : State} {r : Option ErrorKind × State}
    {k : State → Option ErrorKind × State} (first : RegisterFrame i s r.2) (rest : ∀ t, RegisterFrame i t (k t).2) :
    RegisterFrame i s (andThen r k).2 := by
  rcases andThen_cases r k with ⟨e, -, h⟩ | ⟨-, h⟩ <;> rw [h]
  · exact first
  · exact first.trans (rest _)

@[simp] theorem dataWait_lastR1 (cs : List EventClass) (tc : TimeoutClass) (s : State) :
    (dataWait cs tc s).2.h.lastR1 = s.h.lastR1 := by simp [dataWait]

@[simp] theorem busyWait_h (n : Nat) (s : State) : (busyWait n s).2.h = s.h := by
  induction n generalizing s with
  | zero => rfl
  | succ n ih =>
    unfold busyWait
    dsimp only
    split
    · exact readSts2_h s
    · exact (ih _).trans (readSts2_h s)

/-- The status word is `resp_r1`'s alone (R164, R174). -/
@[simp] theorem issue_lastR1 (cmd : Indices → BitVec 6) (arg : Word) (kind : RespKind) (tc : TimeoutClass) (s : State) :
    (issue cmd arg kind tc s).2.h.lastR1 = s.h.lastR1 := by
  unfold issue
  dsimp only
  split
  · simp [sendCommand]
  · simp

theorem issue_registerFrame (i : Instr) (cmd : Indices → BitVec 6) (arg : Word) (kind : RespKind) (tc : TimeoutClass)
    (s : State) : RegisterFrame i s (issue cmd arg kind tc s).2 :=
  .ofPort (issue_frame ..) (issue_lastR1 ..) i

theorem readRegData_registerFrame {i : Instr} {n : Nat} {store : List Byte → State → State}
    (stores : ∀ bytes t, RegisterFrame i t (store bytes t)) (s : State) : RegisterFrame i s (readRegData n store s).2 := by
  refine andThen_registerFrame (.ofPort (dataWait_frame ..) (dataWait_lastR1 ..) i) fun t => ?_
  refine RegisterFrame.trans ?_ ((stores ..).trans (.ofPort (dataWait_frame ..) (dataWait_lastR1 ..) i))
  exact .ofPort ((logCall_frame ..).trans (drawBytes_frame ..)) (by rw [drawBytes_env]; rfl) i

/-- R185–R196, R201–R207: after its `issue` a command writes the status if it is checked, and the field of its rule. -/
theorem followUp_registerFrame (i : Instr) (s : State) : RegisterFrame i s (followUp i s).2 := by
  cases i with
  | cmd1 | acmd41 => constructor <;> simp [followUp, respR3]
  | cmd2 => constructor <;> simp [followUp, respCid]
  | cmd9 => constructor <;> simp [followUp, respCsd]
  | cmd3Sd => constructor <;> simp [followUp, respR6]
  | cmd4 => constructor <;> simp [followUp]
  | cmd8 => constructor <;> simp [followUp, respR7]
  | cmd7 | cmd16 | cmd55 | acmd42 => constructor <;> simp [followUp, respR1]
  | cmd12 | cmd13 => constructor <;> simp [followUp]
  | cmd3Mmc => exact andThen_registerFrame (by constructor <;> simp [respR1]) fun t => by constructor <;> simp
  | acmd6 => exact andThen_registerFrame (by constructor <;> simp [respR1]) fun t => by constructor <;> simp [selectBus]
  | acmd13 =>
    exact andThen_registerFrame (by constructor <;> simp [respR1])
      (readRegData_registerFrame fun bytes t => by constructor <;> simp [storeSdStatus])
  | acmd22 =>
    exact andThen_registerFrame (by constructor <;> simp [respR1])
      (readRegData_registerFrame fun bytes t => by constructor <;> simp [storeWrCount])
  | acmd51 =>
    exact andThen_registerFrame (by constructor <;> simp [respR1])
      (readRegData_registerFrame fun bytes t => by constructor <;> simp [storeScr])
  | _ => constructor <;> simp [followUp]

/-- What follows an `issue` keeps the mask empty, nothing in flight, and every written image written. -/
theorem followUp_frame (i : Instr) (s : State) : CommandFrame s (followUp i s).2 := by
  cases i with
  | cmd1 | acmd41 => constructor <;> simp [followUp, respR3]
  | cmd2 => constructor <;> simp [followUp, respCid]
  | cmd9 => constructor <;> simp [followUp, respCsd]
  | cmd3Sd => constructor <;> simp [followUp, respR6]
  | cmd4 => constructor <;> simp [followUp]
  | cmd8 => constructor <;> simp [followUp, respR7]
  | cmd7 | cmd16 | cmd55 | acmd42 => exact (respR1_frame ..).command
  | cmd12 | cmd13 => exact (takeR1_frame s).command
  | cmd3Mmc => exact andThen_frame (respR1_frame ..).command fun t => by constructor <;> simp
  | acmd6 => exact andThen_frame (respR1_frame ..).command fun t => by constructor <;> simp [selectBus]
  | acmd13 =>
    exact andThen_frame (respR1_frame ..).command
      (readRegData_frame 64 _ fun bytes t => by constructor <;> simp [storeSdStatus])
  | acmd22 =>
    exact andThen_frame (respR1_frame ..).command
      (readRegData_frame 4 _ fun bytes t => by constructor <;> simp [storeWrCount])
  | acmd51 =>
    exact andThen_frame (respR1_frame ..).command
      (readRegData_frame 8 _ fun bytes t => by constructor <;> simp [storeScr])
  | _ => exact (PortFrame.refl s).command

/-- The image that a control step reads after `i` has been accepted is written (R39); `true` for a command that produces
none. -/
def imageWritten (i : Instr) (s : State) : Bool :=
  match i with
  | .cmd1 _ | .acmd41 _ => s.h.ocr.written
  | .cmd8 _ => s.h.ifCond.written
  | .cmd9 _ => s.h.csd.written
  | .acmd13 _ => s.h.sdStatus.written
  | .acmd51 _ => s.h.scr.written
  | _ => true

theorem dataWait_h (cs : List EventClass) (tc : TimeoutClass) (s : State) :
    (dataWait cs tc s).2.h = { s.h with irqMask := [], lastSts2 := (dataWait cs tc s).2.h.lastSts2 } := by simp [dataWait]

/-- Register data that arrived has been stored, and nothing after the store writes an image (R181). -/
theorem readRegData_stored {n : Nat} {store : List Byte → State → State} {image : State → Bool}
    (stored : ∀ bytes t, image (store bytes t) = true) (waits : ∀ cs tc t, image (dataWait cs tc t).2 = image t)
    {s : State} (ok : (readRegData n store s).1 = none) : image (readRegData n store s).2 = true := by
  obtain ⟨-, ran, -⟩ := andThen_ok ok
  rw [readRegData, ran]
  exact (waits ..).trans (stored ..)

/-- R39: a command that completes with Ok has written its image. -/
theorem followUp_written {i : Instr} {s : State} (ok : (followUp i s).1 = none) :
    imageWritten i (followUp i s).2 = true := by
  cases i with
  | acmd13 =>
    obtain ⟨-, ran, stored⟩ := andThen_ok ok
    simp only [followUp, ran]
    exact readRegData_stored (image := (·.h.sdStatus.written)) (fun _ _ => rfl) (fun cs tc t => by rw [dataWait_h]) stored
  | acmd51 =>
    obtain ⟨-, ran, stored⟩ := andThen_ok ok
    simp only [followUp, ran]
    exact readRegData_stored (image := (·.h.scr.written)) (fun _ _ => rfl) (fun cs tc t => by rw [dataWait_h]) stored
  | _ => rfl

/-- Settles O22: an `issue` writes its own bookkeeping, and what follows it the field of the command's rule. -/
theorem registerCommandFrame : Obligations.RegisterCommandFrame := by
  intro i s t wire noData ran
  obtain ⟨cmd, arg, kind, tc, issues⟩ := wireIssue_of_isWire wire
  rw [exec_of_issue issues noData] at ran
  obtain ⟨-, rfl⟩ := command_next ran
  have frame := andThen_registerFrame (issue_registerFrame i cmd arg kind tc s) (followUp_registerFrame i)
  generalize andThen (issue cmd arg kind tc s) (followUp i) = r at frame
  refine ⟨fun a => congrArg (·.read a) frame.mem, fun a => congrArg (·.read a) frame.card, frame.mem, frame.card, frame.io,
    frame.cfg, frame.inputs, frame.finalized, frame.h, frame.ocr, frame.cid, frame.csd, frame.dsr, frame.rca, frame.scr,
    frame.sdStatus, frame.ifCond, frame.busWidth, frame.lastR1, ?_, frame.wrCount, fun plain => ?_⟩
  · simp only [endCommand]
    rw [frame.seq]
  · have silent : announces i = false := by
      cases i with
      | cmd55 arg => exact absurd rfl (plain arg)
      | _ => rfl
    simp [endCommand, silent]

end Sys2Proof.Proofs
end

section
/-! Wire commands on a listed reply (R160–R178, R185–R202, R206): what each leaves when it completes, and when its `issue` or
its R1 check fails. -/

namespace Sys2Proof.Proofs

open Sys2Proof Sys2Proof.Machine Sys2Proof.Claims Sys2Proof.Laws

/-- A response word has been taken as the R1 status (R174). -/
def statusTaken (v : PortWord) (rsp : List PortWord) (t : State) : State :=
  { responded rsp t with h.lastR1 := v.setWidth 32 }

/-! ### Responses on a listed word -/

section
variable {v : PortWord} {rsp : List PortWord} {s : State}

theorem takeR1_listed (listed : s.env.rsp = v :: rsp) : takeR1 s = statusTaken v rsp s := by
  rw [takeR1, readRsp_listed listed]
  rfl

theorem r1ErrorExcept_zero (p : R1Positions) (status : Word) : r1ErrorExcept p 0#32 status = r1Error p status := by
  rw [r1ErrorExcept, BitVec.not_zero, BitVec.and_allOnes]

/-- R174: the status is kept whatever the check says. -/
theorem respR1_listed (excl : Word) (listed : s.env.rsp = v :: rsp) :
    respR1 excl s = (r1ErrorExcept s.cfg.pos.r1 excl (v.setWidth 32), statusTaken v rsp s) := by
  rw [respR1, takeR1_listed listed]
  rfl

theorem respR6_listed (listed : s.env.rsp = v :: rsp) :
    respR6 s = (none, { responded rsp s with h.rca := .holding (v.extractLsb' s.cfg.pos.r6Rca 16) }) := by
  rw [respR6, readRsp_listed listed]

theorem respR7_listed (listed : s.env.rsp = v :: rsp) :
    respR7 s = (none, { responded rsp s with h.ifCond := .holding (v.setWidth 32) }) := by
  rw [respR7, readRsp_listed listed]

/-- R105, R175: two listed words, the more significant first. -/
theorem readImage_listed {high low : PortWord} (listed : s.env.rsp = high :: low :: rsp) :
    readImage s = (high ++ low, responded rsp (responded (low :: rsp) s)) := by
  have second : (responded (low :: rsp) s).env.rsp = low :: rsp := rfl
  rw [readImage, readRsp_listed listed, readRsp_listed second]

end

/-! ### Completion -/

/-- What an accepted command without a sector data phase answers. -/
theorem exec_accepted {i : Instr} {s : State} {r : Reply} {cmd : Indices → BitVec 6} {arg : Word} {kind : RespKind}
    {tc : TimeoutClass} (accepted : Accepted s r) (issues : wireIssue i = some (cmd, arg, kind, tc))
    (noData : isData i s = none) :
    exec i s = .next (endCommand (announces i) (followUp i (issued s r cmd arg kind tc))) := by
  rw [exec_of_issue issues noData, command_accepted accepted]

/-- An accepted command that `i` is, with what follows its `issue` known. -/
theorem exec_of_followUp {i : Instr} {s u : State} {r : Reply} {cmd : Indices → BitVec 6} {arg : Word} {kind : RespKind}
    {tc : TimeoutClass} {result : Option ErrorKind} (accepted : Accepted s r)
    (issues : wireIssue i = some (cmd, arg, kind, tc)) (noData : isData i s = none)
    (follows : followUp i (issued s r cmd arg kind tc) = (result, u)) :
    exec i s = .next (endCommand (announces i) (result, u)) := by
  rw [exec_accepted accepted issues noData, follows]

/-- Settles O12: CMD0 and CMD4 read no response; R6 and R7 are copied from the listed word. -/
theorem uncheckedCommands : Obligations.UncheckedCommands := fun _ _ _ accepted =>
  ⟨exec_of_followUp accepted rfl rfl rfl, exec_of_followUp accepted rfl rfl rfl, fun _ _ listed =>
    ⟨exec_of_followUp (i := .cmd3Sd _) accepted rfl rfl (respR6_listed (s := issued ..) listed),
      exec_of_followUp (i := .cmd8 _) accepted rfl rfl (respR7_listed (s := issued ..) listed)⟩⟩

/-- Settles O14: the image is the two listed words. -/
theorem imageCommands : Obligations.ImageCommands := by
  intro s r arg high low rsp accepted listed
  constructor
  · rw [exec_accepted (i := .cmd2 arg) accepted rfl rfl, followUp, respCid, readImage_listed (s := issued ..) listed]
    rfl
  · rw [exec_accepted (i := .cmd9 arg) accepted rfl rfl, followUp, respCsd, readImage_listed (s := issued ..) listed]
    rfl

/-- Settles O17: the status is taken and not looked at. -/
theorem statusCommands : Obligations.StatusCommands := fun s r arg _ _ accepted listed =>
  have taken := fun cmd kind => congrArg (Prod.mk none) (takeR1_listed (s := issued s r cmd arg kind .cmd) listed)
  ⟨exec_of_followUp (i := .cmd12 arg) accepted rfl rfl (taken _ _),
    exec_of_followUp (i := .cmd13 arg) accepted rfl rfl (taken _ _)⟩

/-- What a checked command does once its status is clean: the rest of its rule (R181, R189, R202–R207). -/
def afterCheck : Instr → State → Option ErrorKind × State
  | .cmd3Mmc _ => fun t => (none, { t with h.rca := .holding t.cfg.mmcRca })
  | .acmd6 _ => fun t => (none, selectBus .four t)
  | .acmd13 _ => readRegData 64 storeSdStatus
  | .acmd22 _ => readRegData 4 storeWrCount
  | .acmd51 _ => readRegData 8 storeScr
  | _ => fun t => (none, t)

section
variable {i : Instr} {s : State} {r : Reply} {cmd : Indices → BitVec 6} {arg : Word} {kind : RespKind} {tc : TimeoutClass}
  {v : PortWord} {rsp : List PortWord}

/-- A command whose R1 is checked first: with a clean status the rest of its rule follows. -/
theorem exec_of_clean_status {excl : Word} (accepted : Accepted s r) (listed : s.env.rsp = v :: rsp)
    (issues : wireIssue i = some (cmd, arg, kind, tc)) (noData : isData i s = none)
    (checks : followUp i (issued s r cmd arg kind tc) =
      andThen (respR1 excl (issued s r cmd arg kind tc)) (afterCheck i))
    (clean : r1ErrorExcept s.cfg.pos.r1 excl (v.setWidth 32) = none) :
    exec i s = .next (endCommand (announces i) (afterCheck i (statusTaken v rsp (issued s r cmd arg kind tc)))) := by
  rw [exec_accepted accepted issues noData, checks, respR1_listed (s := issued ..) excl listed]
  simp only [andThen, show (issued s r cmd arg kind tc).cfg = s.cfg from rfl, clean]

/-- R174: with an error in the status the command ends with it, and the rest of its rule does not happen. -/
theorem exec_of_status_error {excl : Word} {e : ErrorKind}
    (accepted : Accepted s r) (listed : s.env.rsp = v :: rsp) (issues : wireIssue i = some (cmd, arg, kind, tc))
    (noData : isData i s = none)
    (checks : followUp i (issued s r cmd arg kind tc) =
      andThen (respR1 excl (issued s r cmd arg kind tc)) (afterCheck i))
    (error : r1ErrorExcept s.cfg.pos.r1 excl (v.setWidth 32) = some e) :
    exec i s = .next (ended false (.failed e) (statusTaken v rsp (issued s r cmd arg kind tc))) := by
  rw [exec_accepted accepted issues noData, checks, respR1_listed (s := issued ..) excl listed]
  simp [andThen, show (issued s r cmd arg kind tc).cfg = s.cfg from rfl, error, endCommand, ended]

end

/-- Settles O15: the status is clean, so that the rest of each rule follows. -/
theorem checkedCommandsAccepted : Obligations.CheckedCommandsAccepted := by
  intro s r arg v rsp accepted listed
  refine ⟨fun clean => ?_, fun clean => ?_⟩
  · rw [← r1ErrorExcept_zero] at clean
    refine ⟨?_, ?_, ?_, ?_, ?_⟩
    · rw [exec_of_clean_status (i := .cmd3Mmc arg) accepted listed rfl rfl rfl clean]; rfl
    · rw [exec_of_clean_status (i := .cmd16 arg) accepted listed rfl rfl (andThen_pure _).symm clean]; rfl
    · rw [exec_of_clean_status (i := .cmd55 arg) accepted listed rfl rfl (andThen_pure _).symm clean]; rfl
    · rw [exec_of_clean_status (i := .acmd6 arg) accepted listed rfl rfl rfl clean]; rfl
    · rw [exec_of_clean_status (i := .acmd42 arg) accepted listed rfl rfl (andThen_pure _).symm clean]; rfl
  · rw [exec_of_clean_status (i := .cmd7 arg) accepted listed rfl rfl (andThen_pure _).symm clean]; rfl

/-! ### Failure -/

/-- R165: where `issue` fails, its error is the result of a command without a sector data phase. -/
theorem exec_of_issue_error {i : Instr} {s u : State} {cmd : Indices → BitVec 6} {arg : Word} {kind : RespKind}
    {tc : TimeoutClass} {e : ErrorKind} (issues : wireIssue i = some (cmd, arg, kind, tc)) (noData : isData i s = none)
    (idle : s.h.inFlight = false) (failed : issue cmd arg kind tc s = (some e, u)) :
    exec i s = .next (ended false (.failed e) u) := by
  rw [exec_of_issue issues noData, command_idle idle, failed]
  simp [andThen, endCommand, ended]

/-- R305, R310: where the issue or the R1 check of a data command fails, that is its result, and no data phase follows. -/
theorem exec_data_of_error {i : Instr} {s u : State} {dir : Direction} {n : Nat} {cmd : Indices → BitVec 6} {arg : Word}
    {kind : RespKind} {tc : TimeoutClass} {e : ErrorKind} (data : isData i s = some (dir, n, arg))
    (issues : wireIssue i = some (cmd, arg, kind, tc)) (idle : s.h.inFlight = false)
    (failed : issueR1 cmd arg kind tc 0#32 (forgetCopies s) = (some e, u)) :
    exec i s = .next (ended false (.failed e) u) := by
  obtain ⟨cmd', issues', ran⟩ := exec_of_isData data
  obtain ⟨rfl, -, rfl, rfl⟩ : cmd' = cmd ∧ arg = arg ∧ RespKind.r1 = kind ∧ TimeoutClass.cmd = tc := by
    simpa [issues'] using issues
  rw [ran, dataCommand_of_issue failed idle (.inr rfl)]
  simp [andThen, endCommand, ended]

/-- A data command counts no copies before its issue; the reply stands as it did. -/
theorem accepted_forgetCopies {s : State} {r : Reply} (accepted : Accepted s r) : Accepted (forgetCopies s) r := by
  obtain ⟨idle, ⟨listed, within, busy, settles, wait⟩, clean⟩ := accepted
  exact ⟨idle, ⟨listed, within, busy, settles, wait⟩, clean⟩

/-- What `issue` and the R1 check of an accepted command answer. -/
theorem issueR1_accepted {s : State} {r : Reply} {v : PortWord} {rsp : List PortWord} (accepted : Accepted s r)
    (listed : s.env.rsp = v :: rsp) (cmd : Indices → BitVec 6) (arg : Word) (kind : RespKind) (tc : TimeoutClass) :
    issueR1 cmd arg kind tc 0#32 s =
      (r1Error s.cfg.pos.r1 (v.setWidth 32), statusTaken v rsp (issued s r cmd arg kind tc)) := by
  rw [issueR1, issue_accepted accepted]
  simp only [andThen]
  rw [respR1_listed (s := issued ..) 0#32 listed, r1ErrorExcept_zero]
  rfl

/-- Settles O16: the error of `issue` or of the status ends the command before what would follow. -/
theorem commandFailures : Obligations.CommandFailures := by
  refine ⟨fun i s u cmd arg kind tc e issues idle failed => ?_, fun s r arg v rsp e accepted listed => ?_⟩
  · cases data : isData i s with
    | none =>
      rw [data] at failed
      exact exec_of_issue_error issues data idle failed
    | some d =>
      obtain ⟨dir, n, arg'⟩ := d
      rw [data, Option.isSome_some, if_pos rfl] at failed
      obtain ⟨cmd', issues', -⟩ := exec_of_isData data
      obtain ⟨-, rfl, -, -⟩ : cmd' = cmd ∧ arg' = arg ∧ RespKind.r1 = kind ∧ TimeoutClass.cmd = tc := by
        simpa [issues'] using issues
      refine exec_data_of_error data issues idle ?_
      rw [issueR1, forgetCopies, failed]
      rfl
  · refine ⟨fun error => ?_, fun error => ?_⟩
    · have masked := (r1ErrorExcept_zero ..).trans error
      refine ⟨exec_of_status_error (i := .cmd3Mmc arg) accepted listed rfl rfl rfl masked,
        exec_of_status_error (i := .cmd16 arg) accepted listed rfl rfl (andThen_pure _).symm masked,
        exec_of_status_error (i := .cmd55 arg) accepted listed rfl rfl (andThen_pure _).symm masked,
        exec_of_status_error (i := .acmd6 arg) accepted listed rfl rfl rfl masked,
        exec_of_status_error (i := .acmd42 arg) accepted listed rfl rfl (andThen_pure _).symm masked,
        exec_of_status_error (i := .acmd13 arg) accepted listed rfl rfl rfl masked,
        exec_of_status_error (i := .acmd22 arg) accepted listed rfl rfl rfl masked,
        exec_of_status_error (i := .acmd51 arg) accepted listed rfl rfl rfl masked, ?_⟩
      intro i dir n cmd data issues
      refine exec_data_of_error data issues accepted.idle ?_
      rw [issueR1_accepted (s := forgetCopies s) (accepted_forgetCopies accepted) listed]
      exact congrArg (·, _) error
    · exact exec_of_status_error (i := .cmd7 arg) accepted listed rfl rfl (andThen_pure _).symm error

end Sys2Proof.Proofs
end

section
/-! The data phases (R181, R305–R310): how far a data command moves its sectors, whatever the Port answers; and what it
answers when the Port's answers are listed. -/

namespace Sys2Proof.Proofs

open Sys2Proof Sys2Proof.Machine Sys2Proof.Claims Sys2Proof.Laws

/-! ### How far a data phase moves -/

theorem dataWait_waited (cs : List EventClass) (tc : TimeoutClass) (s : State) : Waited s (dataWait cs tc s).2 := by
  have frame := dataWait_frame cs tc s
  exact ⟨frame.cfg, frame.io, frame.seq, frame.inputs, frame.finalized, by simp [dataWait], frame.mem, frame.card⟩

theorem logCall_waited (c : PortCall) (s : State) : Waited s (logCall c s) := ⟨rfl, rfl, rfl, rfl, rfl, rfl, rfl, rfl⟩

theorem eventArrives_waited (cs : List EventClass) (s : State) : Waited s (eventArrives cs s).2 := by
  constructor <;> simp

section
variable {dir : Direction} {s t : State} {sector buf n : Nat}

/-- What moved is not changed by the DMA engine's state before and after. -/
theorem moved_upToDma {d : DmaState} (moved : Moved dir (setDma d s) t sector buf n) :
    Moved dir s (setDma s.h.dmaState t) sector buf n := by
  obtain ⟨cfg, io, seq, inputs, finalized, h, cardKept, memKept, readIn, readOut, writeIn, writeOut⟩ := moved
  refine ⟨cfg, io, seq, inputs, finalized, ?_, cardKept, memKept, readIn, readOut, writeIn, writeOut⟩
  rw [setDma_h, h]
  rfl

theorem moved_dma_h (moved : Moved dir s (setDma s.h.dmaState t) sector buf n) :
    t.h = { s.h with irqMask := t.h.irqMask, lastSts2 := t.h.lastSts2, dmaState := t.h.dmaState } :=
  congrArg (fun h : Handle => { h with dmaState := t.h.dmaState }) moved.h

/-- Forgetting the count moves no byte. -/
theorem moved_forgotten (moved : Moved dir s t sector buf n) : Moved dir s (forgetCopies t) sector buf n := by
  obtain ⟨cfg, io, seq, inputs, finalized, h, cardKept, memKept, readIn, readOut, writeIn, writeOut⟩ := moved
  refine ⟨cfg, io, ?_, inputs, finalized, h, cardKept, memKept, readIn, readOut, writeIn, writeOut⟩
  simp only [forgetCopies]
  rw [seq]

end

/-- The software path moves the sectors before the wait that fails, all of them where none does (R307). -/
theorem softwareSectors_moved (dir : Direction) (n sector buf : Nat) (s : State) :
    ∃ k ≤ n, Moved dir s (softwareSectors dir sector buf n s).2 sector buf k ∧
      ((softwareSectors dir sector buf n s).1 = none → k = n) := by
  induction n generalizing sector buf s with
  | zero => exact ⟨0, le_rfl, Moved.none .., fun _ => rfl⟩
  | succ n ih =>
    have waited := dataWait_waited [sectorEvent dir, .dataError] .data s
    unfold softwareSectors
    rcases andThen_cases (dataWait [sectorEvent dir, .dataError] .data s) fun t =>
      softwareSectors dir (sector + 1) (buf + 512) n
        (countCopy (moveSector dir sector buf (logCall (.dataPort dir) t))) with ⟨e, -, ran⟩ | ⟨-, ran⟩ <;> rw [ran]
    · exact ⟨0, Nat.zero_le _, (Moved.none ..).before waited, nofun⟩
    · have one := ((moveSector_moved dir sector buf _).counted.after (logCall_waited (.dataPort dir) _)).after waited
      obtain ⟨k, le, rest, all⟩ := ih (sector + 1) (buf + 512) (countCopy (moveSector dir sector buf
        (logCall (.dataPort dir) (dataWait [sectorEvent dir, .dataError] .data s).2)))
      exact ⟨k + 1, Nat.succ_le_succ le, one.cons rest, fun ok => congrArg (· + 1) (all ok)⟩

/-- The DMA path moves nothing before its end, and all sectors at it (R308, R113). -/
theorem dmaPhase_moved (dir : Direction) (n sector buf : Nat) (s : State) :
    ∃ k ≤ n, Moved dir s (setDma s.h.dmaState (dmaPhase dir sector buf n s).2) sector buf k ∧
      ((dmaPhase dir sector buf n s).1 = none → k = n) := by
  have armed : ∀ d {t k}, Moved dir (setDma .armed (logCall (.dmaInit buf dir) s)) t sector buf k →
      Moved dir s (setDma s.h.dmaState (setDma d t)) sector buf k :=
    fun _ _ _ moved => (moved_upToDma moved).after (logCall_waited ..)
  have access := dataWait_waited [.accessEnd, .dataError] .seq (setDma .armed (logCall (.dmaInit buf dir) s))
  unfold dmaPhase endSeq
  dsimp only
  split
  case h_1 => exact ⟨0, Nat.zero_le _, armed .residual ((Moved.none ..).before access), nofun⟩
  case h_2 =>
    have drained := (logCall_waited .dmaWaitEnd
      (dataWait [.accessEnd, .dataError] .seq (setDma .armed (logCall (.dmaInit buf dir) s))).2)
    unfold drainDma
    dsimp only
    split
    case isTrue =>
      exact ⟨n, le_rfl, armed .done ((((dmaSectors_moved dir n sector buf _).after (eventArrives_waited ..)).after
        drained).after access), fun _ => rfl⟩
    case isFalse =>
      exact ⟨0, Nat.zero_le _, armed .residual ((((Moved.none ..).before access).before drained).before (eventArrives_waited ..)),
        nofun⟩

/-- A data phase moves some of its sectors, all of them where it answers Ok, and writes no handle field but the mask, the
secondary status and the DMA state (R306). -/
theorem dataPhase_moved (dir : Direction) (n sector buf : Nat) (s : State) :
    ∃ k ≤ n, Moved dir s (setDma s.h.dmaState (dataPhase dir sector buf n s).2) sector buf k ∧
      ((dataPhase dir sector buf n s).1 = none → k = n) := by
  unfold dataPhase
  split
  case h_1 =>
    obtain ⟨k, le, moved, all⟩ := softwareSectors_moved dir n sector buf s
    rcases andThen_cases (softwareSectors dir sector buf n s) fun t => endSeq (forgetCopies t) with
      ⟨e, -, ran⟩ | ⟨ok, ran⟩ <;> rw [ran]
    · exact ⟨k, le, moved_upToDma (d := s.h.dmaState) moved, nofun⟩
    · exact ⟨k, le, moved_upToDma (d := s.h.dmaState) ((moved_forgotten moved).before (dataWait_waited ..)), fun _ => all ok⟩
  case h_2 => exact dmaPhase_moved ..

/-- What a data command has done when it ends: its issue and R1 check, and `k` of its sectors moved, all of them when it
completes (R305, R310). -/
theorem exec_data_moved {i : Instr} {s t : State} {dir : Direction} {n : Nat} {arg : Word}
    (data : isData i s = some (dir, n, arg)) (ran : exec i s = .next t) :
    ∃ k ≤ n, ∃ u r, PortFrame (forgetCopies s) u ∧ t = endCommand false r ∧
      Moved dir u (setDma u.h.dmaState r.2) (dataSector s arg) (s.seq.burst.buf + 512 * s.seq.burst.k) k ∧
      (t.seq.done = some .ok → k = n) := by
  obtain ⟨cmd, -, eq⟩ := exec_of_isData data
  obtain ⟨-, -, rfl⟩ := dataCommand_next (eq ▸ ran)
  have issued := issueR1_frame cmd arg .r1 .cmd 0#32 (forgetCopies s)
  rcases andThen_cases (issueR1 cmd arg .r1 .cmd 0#32 (forgetCopies s)) (dataPhase dir (addressedSector s.h.highCapacity
    (s.seq.burst.first + s.seq.burst.k) arg) (s.seq.burst.buf + 512 * s.seq.burst.k) n) with ⟨e, -, h⟩ | ⟨-, h⟩ <;> rw [h]
  · exact ⟨0, Nat.zero_le _, _, _, issued, rfl, Moved.none .., nofun⟩
  · obtain ⟨k, le, moved, all⟩ := dataPhase_moved dir n (addressedSector s.h.highCapacity
      (s.seq.burst.first + s.seq.burst.k) arg) (s.seq.burst.buf + 512 * s.seq.burst.k)
      (issueR1 cmd arg .r1 .cmd 0#32 (forgetCopies s)).2
    refine ⟨k, le, _, _, issued, rfl, moved, fun done => all ?_⟩
    simp only [endCommand, Option.some.injEq] at done
    split at done
    case h_1 ok => exact ok
    case h_2 => cases done

/-- Settles O23: the issue writes its bookkeeping, and the data phase moves some of its sectors. -/
theorem dataCommandFrame : Obligations.DataCommandFrame := by
  intro i s t dir n arg data ran
  obtain ⟨k, le, u, r, issued, rfl, moved, -⟩ := exec_data_moved data ran
  have seq : r.2.seq = { u.seq with copied := r.2.seq.copied } := moved.seq
  refine ⟨⟨moved.cfg.trans issued.cfg, moved.io.trans issued.io, moved.inputs.trans issued.inputs,
    moved.finalized.trans issued.finalized, ?_⟩, ?_, fun d => ⟨(moved.cardKept d).trans issued.card, fun a outside => ?_⟩,
    fun d => ⟨(moved.memKept d).trans issued.mem, fun a outside => ?_⟩⟩
  · simp only [endCommand, Bool.false_and]
    rw [seq, issued.seq]
    rfl
  · simp only [endCommand]
    rw [moved_dma_h moved, issued.h]
    rfl
  · have shorter := Nat.add_le_add_left (Nat.mul_le_mul_left 512 le) (s.seq.burst.buf + 512 * s.seq.burst.k)
    exact (moved.readOutside d a (outside.imp_right shorter.trans)).trans (congrArg (·.read a) issued.mem)
  · have fewer := Nat.mul_le_mul_right 512 (Nat.add_le_add_left le (dataSector s arg))
    exact (moved.writeOutside d a (outside.imp_right fewer.trans)).trans (congrArg (·.read a) issued.card)

/-- Settles O24: both commands have moved their one sector, between the same sector and either buffer. -/
theorem readAfterWrite : Obligations.ReadAfterWrite := by
  intro s t u v arg wrote writeOk kept readBack readOk size same inside
  obtain ⟨k, -, s', r, issuedW, rfl, movedW, allW⟩ := exec_data_moved (i := .cmd24 arg) rfl wrote
  obtain ⟨k', -, u', r', issuedR, rfl, movedR, allR⟩ := exec_data_moved (i := .cmd17 arg) rfl readBack
  obtain rfl := allW writeOk
  obtain rfl := allR readOk
  have insideW : dataSector s arg + 0 < s'.h.cardSectorSize := by rw [issuedW.h]; exact inside
  have insideR : dataSector u arg + 0 < u'.h.cardSectorSize := by rw [issuedR.h, same]; exact size ▸ inside
  have byte : ∀ j ∈ List.range 512, r'.2.mem.read (u.seq.burst.buf + 512 * u.seq.burst.k + j) =
      s.mem.read (s.seq.burst.buf + 512 * s.seq.burst.k + j) := fun j hj => by
    have wrote := movedW.writeInside rfl 0 Nat.one_pos insideW j (List.mem_range.1 hj)
    have read := movedR.readInside rfl 0 Nat.one_pos insideR j (List.mem_range.1 hj)
    rw [Nat.mul_zero, Nat.add_zero, Nat.add_zero] at wrote read
    calc r'.2.mem.read (u.seq.burst.buf + 512 * u.seq.burst.k + j)
        = u'.card.read (dataSector u arg * 512 + j) := read
      _ = r.2.card.read (dataSector s arg * 512 + j) := by rw [issuedR.card, same]; exact congrArg (Memory.read · _) kept
      _ = s'.mem.read (s.seq.burst.buf + 512 * s.seq.burst.k + j) := wrote
      _ = s.mem.read (s.seq.burst.buf + 512 * s.seq.burst.k + j) := by rw [issuedW.mem]; rfl
  exact List.map_congr_left byte

end Sys2Proof.Proofs
end

section
/-! Data phases on listed answers: register data (R181, R203–R207), the software path (R307, R410) and the DMA path (R308),
completing and failing. -/

namespace Sys2Proof.Proofs

open Sys2Proof Sys2Proof.Machine Sys2Proof.Claims Sys2Proof.Laws

/-! ### Register data -/

/-- R97: the value of bytes in wire order, by the digits that Mathlib reads lowest first. -/
theorem bigEndian_eq_ofDigits (w : Nat) (bytes : List Byte) :
    bigEndian w bytes = BitVec.ofNat w (Nat.ofDigits 256 (bytes.reverse.map BitVec.toNat)) := by
  rw [bigEndian, Nat.ofDigits_eq_foldr, List.map_reverse, List.foldr_reverse, List.foldl_map]
  simp only [Nat.cast_id, Nat.add_comm, Nat.mul_comm 256]

/-- A wait fails with its status' error, or without one by timing out (R165). -/
theorem classify_of_fails {p : Sts2Positions} {status : Sts2} {arrived : Bool} {e : ErrorKind}
    (fails : sts2Error p status = some e ∨ (sts2Error p status = none ∧ arrived = false ∧ e = .timeoutHost)) :
    classify p status arrived = some e := by
  rcases fails with bad | ⟨clean, rfl, rfl⟩
  · simp [classify, bad]
  · simp [classify, clean]

theorem classify_of_clean {p : Sts2Positions} {status : Sts2} (clean : sts2Error p status = none) :
    classify p status true = none := by simp [classify, clean]

/-- The state after a data-phase wait whose event and status were listed. -/
def waitOver (status : Sts2) (later : List Sts2) (events : List (Option EventClass)) (log : List PortEvent) (s : State) :
    State :=
  { s with env.events := events, env.sts2 := later, h.irqMask := [], h.lastSts2 := status, log := log }

theorem dataWait_over {cs : List EventClass} (tc : TimeoutClass) {s : State} {arrived : Bool}
    {events : List (Option EventClass)} {status : Sts2} {later : List Sts2}
    (wait : awaitEvent cs s.env.events = some (arrived, events)) (statuses : s.env.sts2 = status :: later) :
    ∃ log, dataWait cs tc s = (classify s.cfg.pos.sts2 status arrived, waitOver status later events log s) :=
  dataWait_listed wait statuses

/-- Bytes that are listed, by their number. -/
theorem drawBytes_of_length {n : Nat} {bytes rest : List Byte} {s : State} (length : bytes.length = n)
    (listed : s.env.bytes = bytes ++ rest) : drawBytes n s = (bytes, { s with env.bytes := rest }) :=
  length ▸ drawBytes_listed listed

/-- What a store of register data may not touch: the answers still listed, and the positions that classify them. -/
structure StoreQuiet (store : List Byte → State → State) : Prop where
  env : ∀ bytes t, (store bytes t).env = t.env
  cfg : ∀ bytes t, (store bytes t).cfg = t.cfg

theorem storeSdStatus_quiet : StoreQuiet storeSdStatus := ⟨fun _ _ => rfl, fun _ _ => rfl⟩
theorem storeWrCount_quiet : StoreQuiet storeWrCount := ⟨fun _ _ => rfl, fun _ _ => rfl⟩
theorem storeScr_quiet : StoreQuiet storeScr := ⟨fun _ _ => rfl, fun _ _ => rfl⟩

/-- R181: with the ready wait clean the bytes are drawn and stored, and the access-end wait gives the result. -/
theorem readRegData_listed (n : Nat) {store : List Byte → State → State} (quiet : StoreQuiet store) {s : State}
    {ready access : Sts2} {later : List Sts2} {arrived : Bool} {events rest : List (Option EventClass)}
    (statuses : s.env.sts2 = ready :: access :: later) (readyClean : sts2Error s.cfg.pos.sts2 ready = none)
    (buffer : awaitEvent [.bufReady, .dataError] s.env.events = some (true, events))
    (ends : awaitEvent [.accessEnd, .dataError] events = some (arrived, rest)) :
    ∃ log log', readRegData n store s = (classify s.cfg.pos.sts2 access arrived, waitOver access later rest log'
      (store (drawBytes n (waitOver ready (access :: later) events log s)).1
        (drawBytes n (waitOver ready (access :: later) events log s)).2)) := by
  obtain ⟨log, first⟩ := dataWait_over .data buffer statuses
  let port := logCall (.dataPort .read) (waitOver ready (access :: later) events log s)
  let stored := store (drawBytes n port).1 (drawBytes n port).2
  have env : stored.env.events = events ∧ stored.env.sts2 = access :: later := by
    rw [quiet.env, drawBytes_env]
    exact ⟨rfl, rfl⟩
  have cfg : stored.cfg = s.cfg := (quiet.cfg ..).trans (drawBytes_frame n port).cfg
  obtain ⟨log', second⟩ := dataWait_over (s := stored) .cmd (by rw [env.1]; exact ends) env.2
  refine ⟨port.log, log', ?_⟩
  rw [readRegData, first, classify_of_clean readyClean]
  rw [cfg] at second
  exact second

/-- R181: with both waits clean and the bytes listed, they are stored and the command completes. -/
theorem readRegData_complete {n : Nat} {store : List Byte → State → State} (quiet : StoreQuiet store) {s : State}
    {ready access : Sts2} {later : List Sts2} {events rest : List (Option EventClass)} {bytes more : List Byte}
    (statuses : s.env.sts2 = ready :: access :: later) (readyClean : sts2Error s.cfg.pos.sts2 ready = none)
    (accessClean : sts2Error s.cfg.pos.sts2 access = none)
    (buffer : awaitEvent [.bufReady, .dataError] s.env.events = some (true, events))
    (ends : awaitEvent [.accessEnd, .dataError] events = some (true, rest))
    (length : bytes.length = n) (data : s.env.bytes = bytes ++ more) :
    ∃ log log', readRegData n store s = (none, waitOver access later rest log'
      (store bytes { waitOver ready (access :: later) events log s with env.bytes := more })) := by
  obtain ⟨log, log', phase⟩ := readRegData_listed n quiet statuses readyClean buffer ends
  have drawn := drawBytes_of_length (s := waitOver ready (access :: later) events log s) length data
  rw [drawn, classify_of_clean accessClean] at phase
  exact ⟨log, log', phase⟩

/-- R181: a failing ready wait is the result, and nothing is stored. -/
theorem readRegData_not_ready (n : Nat) (store : List Byte → State → State) {s : State} {status : Sts2}
    {later : List Sts2} {arrived : Bool} {events : List (Option EventClass)} {e : ErrorKind}
    (statuses : s.env.sts2 = status :: later) (buffer : awaitEvent [.bufReady, .dataError] s.env.events = some (arrived, events))
    (fails : classify s.cfg.pos.sts2 status arrived = some e) :
    ∃ log, readRegData n store s = (some e, waitOver status later events log s) := by
  obtain ⟨log, first⟩ := dataWait_over .data buffer statuses
  refine ⟨log, ?_⟩
  rw [readRegData, first, fails]
  rfl

/-- A register-data command with a clean status, and its data phase to come (R203, R204, R207). -/
theorem exec_of_registerData {s : State} {r : Reply} {v : PortWord} {rsp : List PortWord} (accepted : Accepted s r)
    (listed : s.env.rsp = v :: rsp) (clean : r1Error s.cfg.pos.r1 (v.setWidth 32) = none) (arg : Word) :
    exec (.acmd13 arg) s = .next (endCommand false
      (readRegData 64 storeSdStatus (statusTaken v rsp (issued s r (·.acmd13) arg .r1 .acmd)))) ∧
    exec (.acmd22 arg) s = .next (endCommand false
      (readRegData 4 storeWrCount (statusTaken v rsp (issued s r (·.acmd22) arg .r1 .acmd)))) ∧
    exec (.acmd51 arg) s = .next (endCommand false
      (readRegData 8 storeScr (statusTaken v rsp (issued s r (·.acmd51) arg .r1 .acmd)))) := by
  rw [← r1ErrorExcept_zero] at clean
  exact ⟨exec_of_clean_status (i := .acmd13 arg) accepted listed rfl rfl rfl clean,
    exec_of_clean_status (i := .acmd22 arg) accepted listed rfl rfl rfl clean,
    exec_of_clean_status (i := .acmd51 arg) accepted listed rfl rfl rfl clean⟩

/-- Settles O18: both waits are clean, so that the bytes are stored; their value is R97's. -/
theorem registerDataCommands : Obligations.RegisterDataCommands := by
  intro s r arg v rsp ready access later events bytes rest accepted listed clean statuses readyClean accessClean waits data
  obtain ⟨ran13, ran22, ran51⟩ := exec_of_registerData accepted listed clean arg
  have buffer : awaitEvent [.bufReady, .dataError] r.events = some (true, some .accessEnd :: events) := by rw [waits]; rfl
  refine ⟨fun length => ?_, fun length => ?_, fun length => ?_⟩
  · obtain ⟨log, log', phase⟩ := readRegData_complete storeSdStatus_quiet
      (s := statusTaken v rsp (issued s r (·.acmd13) arg .r1 .acmd)) statuses readyClean accessClean buffer rfl length data
    rw [phase] at ran13
    refine ⟨_, ran13, ?_⟩
    simp [endCommand, waitOver, storeSdStatus, statusTaken, responded, issued, bigEndian_eq_ofDigits]
  · obtain ⟨log, log', phase⟩ := readRegData_complete storeWrCount_quiet
      (s := statusTaken v rsp (issued s r (·.acmd22) arg .r1 .acmd)) statuses readyClean accessClean buffer rfl length data
    rw [phase] at ran22
    refine ⟨_, ran22, ?_⟩
    simp [endCommand, waitOver, storeWrCount, statusTaken, responded, issued, bigEndian_eq_ofDigits]
  · obtain ⟨log, log', phase⟩ := readRegData_complete storeScr_quiet
      (s := statusTaken v rsp (issued s r (·.acmd51) arg .r1 .acmd)) statuses readyClean accessClean buffer rfl length data
    rw [phase] at ran51
    refine ⟨_, ran51, ?_⟩
    simp [endCommand, waitOver, storeScr, statusTaken, responded, issued, bigEndian_eq_ofDigits]

end Sys2Proof.Proofs
end

section
/-! The four data commands on listed answers (R197–R200, R305–R310): the software path and the DMA path, completing and
failing. -/

namespace Sys2Proof.Proofs

open Sys2Proof Sys2Proof.Machine Sys2Proof.Claims Sys2Proof.Laws

/-! ### Where a data phase begins and ends -/

/-- `u` is `s` after the issue and the R1 check of an accepted data command: its data phase begins. -/
structure DataStarted (s u : State) (r : Reply) (v : PortWord) : Prop where
  sts2 : u.env.sts2 = r.sts2
  events : u.env.events = r.events
  cfg : u.cfg = s.cfg
  io : u.io = s.io
  seq : u.seq = { s.seq with copied := 0 }
  mem : u.mem = s.mem
  card : u.card = s.card
  inputs : u.inputs = s.inputs
  finalized : u.finalized = s.finalized
  h : u.h = { s.h with irqMask := [], inFlight := false, lastR1 := v.setWidth 32, lastSts2 := r.after }

/-- The bytes that a data phase of `n` sectors leaves, by its direction. -/
def bytesMoved (dir : Direction) (s t : State) (first buf n : Nat) : Prop :=
  match dir with
  | .read => ReadDone s t first buf n
  | .write => WriteDone s t first buf n

section
variable {i : Instr} {s u w : State} {dir : Direction} {n k first buf : Nat} {arg : Word} {r : Reply} {v : PortWord}
  {rsp : List PortWord} {result : Option ErrorKind}

theorem issueR1_data_accepted (accepted : Accepted s r) (listed : s.env.rsp = v :: rsp)
    (clean : r1Error s.cfg.pos.r1 (v.setWidth 32) = none) (cmd : Indices → BitVec 6) (arg : Word) :
    ∃ u, DataStarted s u r v ∧ issueR1 cmd arg .r1 .cmd 0#32 (forgetCopies s) = (none, u) := by
  refine ⟨statusTaken v rsp (issued (forgetCopies s) r cmd arg .r1 .cmd), ?_, ?_⟩
  · constructor <;> simp [statusTaken, responded, issued]
  · rw [issueR1_accepted (s := forgetCopies s) (accepted_forgetCopies accepted) listed, forgetCopies_cfg, clean]

/-- An accepted data command is its data phase. -/
theorem exec_data_accepted (data : isData i s = some (dir, n, arg)) (accepted : Accepted s r)
    (listed : s.env.rsp = v :: rsp) (clean : r1Error s.cfg.pos.r1 (v.setWidth 32) = none) (free : dmaBlocked s = false) :
    ∃ u, DataStarted s u r v ∧ exec i s = .next (endCommand false
      (dataPhase dir (dataSector s arg) (s.seq.burst.buf + 512 * s.seq.burst.k) n u)) := by
  obtain ⟨cmd, -, ran⟩ := exec_of_isData data
  obtain ⟨u, started, issued⟩ := issueR1_data_accepted accepted listed clean cmd arg
  exact ⟨u, started, ran.trans (dataCommand_of_issue issued accepted.idle (.inl free))⟩

/-- R308: on a DMA engine that is armed or holds residual state an accepted data command faults. -/
theorem exec_data_blocked (data : isData i s = some (dir, n, arg)) (accepted : Accepted s r)
    (listed : s.env.rsp = v :: rsp) (clean : r1Error s.cfg.pos.r1 (v.setWidth 32) = none) (blocked : dmaBlocked s = true) :
    exec i s = .fault .dmaNotIdle := by
  obtain ⟨cmd, -, ran⟩ := exec_of_isData data
  obtain ⟨u, -, issued⟩ := issueR1_data_accepted accepted listed clean cmd arg
  rw [ran, dataCommand, issued, accepted.idle, blocked]
  rfl

/-- What a data command leaves alone when its data phase ends with `w` (R455). -/
theorem dataFrame_of_moved (started : DataStarted s u r v)
    (moved : Moved dir u (setDma u.h.dmaState w) first buf k) : DataFrame s (endCommand false (result, w)) := by
  refine ⟨moved.cfg.trans started.cfg, moved.io.trans started.io, moved.inputs.trans started.inputs,
    moved.finalized.trans started.finalized, ?_⟩
  have seq : w.seq = { u.seq with copied := w.seq.copied } := moved.seq
  simp only [endCommand, Bool.false_and]
  rw [seq, started.seq]

/-- The bytes that a data command has moved when its data phase ends with `w`. -/
theorem bytesMoved_of_moved (started : DataStarted s u r v)
    (moved : Moved dir u (setDma u.h.dmaState w) first buf k) :
    bytesMoved dir s (endCommand false (result, w)) first buf k := by
  have size : u.h.cardSectorSize = s.h.cardSectorSize := by rw [started.h]
  cases dir with
  | read =>
    refine ⟨fun k hk inside j hj => ?_, fun a outside => ?_, (moved.cardKept rfl).trans started.card⟩
    · rw [← size] at inside
      exact (moved.readInside rfl k hk inside j hj).trans (by rw [started.card])
    · exact (moved.readOutside rfl a outside).trans (by rw [started.mem])
  | write =>
    refine ⟨fun k hk inside j hj => ?_, fun a outside => ?_, (moved.memKept rfl).trans started.mem⟩
    · rw [← size] at inside
      exact (moved.writeInside rfl k hk inside j hj).trans (by rw [started.mem])
    · exact (moved.writeOutside rfl a outside).trans (by rw [started.card])

end

/-! ### The software path -/

/-- The first sectors of the software path, then the others (R307). -/
theorem softwareSectors_add (dir : Direction) (m n sector buf : Nat) (s : State) :
    softwareSectors dir sector buf (m + n) s =
      andThen (softwareSectors dir sector buf m s) (softwareSectors dir (sector + m) (buf + 512 * m) n) := by
  induction m generalizing sector buf s with
  | zero => simp [softwareSectors, andThen]
  | succ m ih =>
    have place : sector + 1 + m = sector + (m + 1) ∧ buf + 512 + 512 * m = buf + 512 * (m + 1) := by
      constructor <;> ring
    rw [Nat.succ_add, softwareSectors, softwareSectors, andThen_assoc]
    refine congrArg _ (funext fun t => ?_)
    rw [ih, place.1, place.2]

/-- R307, R410: the sectors before the wait that fails are copied and counted. -/
theorem softwareSectors_stops {dir : Direction} {n sector buf : Nat} {s : State} {perSector later : List Sts2} {last : Sts2}
    {events rest : List (Option EventClass)} {arrived : Bool} {e : ErrorKind} (less : perSector.length < n)
    (statuses : s.env.sts2 = perSector ++ last :: later) (clean : ∀ x ∈ perSector, sts2Error s.cfg.pos.sts2 x = none)
    (waits : s.env.events = List.replicate perSector.length (some (sectorEvent dir)) ++ events)
    (wait : awaitEvent [sectorEvent dir, .dataError] events = some (arrived, rest))
    (fails : classify s.cfg.pos.sts2 last arrived = some e) :
    ∃ t, softwareSectors dir sector buf n s = (some e, t) ∧ Moved dir s t sector buf perSector.length ∧
      t.seq.copied = s.seq.copied + perSector.length := by
  obtain ⟨m, rfl⟩ := Nat.exists_eq_add_of_lt less
  obtain ⟨t, copies, moved, sts2, evs, count⟩ := softwareSectors_listed (sector := sector) (buf := buf) statuses rfl clean waits
  obtain ⟨log, stop⟩ := dataWait_over .data (s := t) (by rw [evs]; exact wait) sts2
  rw [moved.cfg, fails] at stop
  refine ⟨waitOver last later rest log t, ?_, moved.before ⟨rfl, rfl, rfl, rfl, rfl, rfl, rfl, rfl⟩, count⟩
  rw [Nat.add_assoc, softwareSectors_add, copies]
  simp only [andThen, softwareSectors, stop]

section
variable {dir : Direction} {n sector buf : Nat} {u : State}

theorem dataPhase_sw (mode : u.h.xferMode = .sw) :
    dataPhase dir sector buf n u = andThen (softwareSectors dir sector buf n u) fun t => endSeq (forgetCopies t) := by
  rw [dataPhase, mode]

theorem dataPhase_dma (mode : u.h.xferMode = .dma) : dataPhase dir sector buf n u = dmaPhase dir sector buf n u := by
  rw [dataPhase, mode]

/-- R307, R309: every sector is copied, and the access end's status is the result. -/
theorem dataPhase_sw_listed {perSector later : List Sts2} {last : Sts2} {events rest : List (Option EventClass)}
    {arrived : Bool} (mode : u.h.xferMode = .sw) (statuses : u.env.sts2 = perSector ++ last :: later)
    (number : perSector.length = n) (clean : ∀ x ∈ perSector, sts2Error u.cfg.pos.sts2 x = none)
    (waits : u.env.events = List.replicate n (some (sectorEvent dir)) ++ events)
    (wait : awaitEvent [.accessEnd, .dataError] events = some (arrived, rest)) :
    ∃ w, dataPhase dir sector buf n u = (classify u.cfg.pos.sts2 last arrived, w) ∧ Moved dir u w sector buf n ∧
      w.seq.copied = 0 ∧ w.h = { u.h with irqMask := [], lastSts2 := last } := by
  obtain ⟨t, copies, moved, sts2, evs, -⟩ := softwareSectors_listed (sector := sector) (buf := buf) statuses number clean waits
  obtain ⟨log, ends⟩ := dataWait_over .seq (s := forgetCopies t) (by rw [forgetCopies_env, evs]; exact wait) sts2
  refine ⟨waitOver last later rest log (forgetCopies t), ?_,
    (moved_forgotten moved).before ⟨rfl, rfl, rfl, rfl, rfl, rfl, rfl, rfl⟩, rfl, ?_⟩
  · rw [dataPhase_sw mode, copies]
    rw [forgetCopies_cfg, moved.cfg] at ends
    exact ends
  · rw [waitOver, forgetCopies_h, moved.h]

/-- R307, R410: a failing wait for a sector is the result. -/
theorem dataPhase_sw_stops {perSector later : List Sts2} {last : Sts2} {events rest : List (Option EventClass)}
    {arrived : Bool} {e : ErrorKind} (mode : u.h.xferMode = .sw) (less : perSector.length < n)
    (statuses : u.env.sts2 = perSector ++ last :: later) (clean : ∀ x ∈ perSector, sts2Error u.cfg.pos.sts2 x = none)
    (waits : u.env.events = List.replicate perSector.length (some (sectorEvent dir)) ++ events)
    (wait : awaitEvent [sectorEvent dir, .dataError] events = some (arrived, rest))
    (fails : classify u.cfg.pos.sts2 last arrived = some e) :
    ∃ w, dataPhase dir sector buf n u = (some e, w) ∧ Moved dir u w sector buf perSector.length ∧
      w.seq.copied = u.seq.copied + perSector.length := by
  obtain ⟨t, stops, moved, count⟩ := softwareSectors_stops (sector := sector) (buf := buf) less statuses clean waits wait fails
  exact ⟨t, by rw [dataPhase_sw mode, stops]; rfl, moved, count⟩

/-! ### The DMA path -/

/-- R308: a failing access end is the result and leaves residual state. -/
theorem dataPhase_dma_access_fails {last : Sts2} {later : List Sts2} {events : List (Option EventClass)} {arrived : Bool}
    {e : ErrorKind} (mode : u.h.xferMode = .dma) (statuses : u.env.sts2 = last :: later)
    (wait : awaitEvent [.accessEnd, .dataError] u.env.events = some (arrived, events))
    (fails : classify u.cfg.pos.sts2 last arrived = some e) :
    ∃ w, dataPhase dir sector buf n u = (some e, w) ∧ w.h.dmaState = .residual ∧ w.seq = u.seq := by
  obtain ⟨log, access⟩ := dataWait_over .seq (s := setDma .armed (logCall (.dmaInit buf dir) u)) wait statuses
  rw [setDma_cfg, logCall_cfg, fails] at access
  rw [dataPhase_dma mode, dmaPhase, endSeq, access]
  exact ⟨_, rfl, by simp, by simp [waitOver]⟩

/-- R308, R113: after a clean access end the DMA end decides. -/
theorem dataPhase_dma_drains {last : Sts2} {later : List Sts2} {events more : List (Option EventClass)} {drained : Bool}
    (mode : u.h.xferMode = .dma) (statuses : u.env.sts2 = last :: later) (clean : sts2Error u.cfg.pos.sts2 last = none)
    (wait : awaitEvent [.accessEnd, .dataError] u.env.events = some (true, events))
    (dmaEnd : awaitEvent [.dmaEnd] events = some (drained, more)) :
    ∃ w, dataPhase dir sector buf n u = (if drained then none else some .timeoutHost, w) ∧ w.seq = u.seq ∧
      w.h = { u.h with irqMask := [], lastSts2 := last, dmaState := if drained then .done else .residual } := by
  obtain ⟨log, access⟩ := dataWait_over .seq (s := setDma .armed (logCall (.dmaInit buf dir) u)) wait statuses
  rw [setDma_cfg, logCall_cfg, classify_of_clean clean] at access
  have arrives : (eventArrives [.dmaEnd] (logCall .dmaWaitEnd (waitOver last later events log
      (setDma .armed (logCall (.dmaInit buf dir) u))))).1 = drained := by
    simp [eventArrives, waitOver, dmaEnd]
  rw [dataPhase_dma mode, dmaPhase, endSeq, access]
  simp only [drainDma, arrives]
  cases drained with
  | true => exact ⟨_, rfl, by simp [dmaSectors_seq, waitOver], by simp [dmaSectors_h, waitOver]⟩
  | false => exact ⟨_, rfl, by simp [waitOver], by simp [waitOver]⟩

end

end Sys2Proof.Proofs
end

section
/-! The data commands' obligations: completion on both paths (O19, O20) and the failing data phases (O21). -/

namespace Sys2Proof.Proofs

open Sys2Proof Sys2Proof.Machine Sys2Proof.Claims Sys2Proof.Laws

/-- `Moved` from a state on is `Moved` up to the DMA state when the path left the DMA state alone. -/
theorem moved_setDma {dir : Direction} {u w : State} {first buf k : Nat} (moved : Moved dir u w first buf k) :
    Moved dir u (setDma u.h.dmaState w) first buf k := moved_upToDma (d := u.h.dmaState) moved

/-- Settles O19: every sector's wait is clean, so all are copied, and the clean access end gives Ok. -/
theorem softwareTransfers : Obligations.SoftwareTransfers := by
  intro s i dir n arg r v rsp perSector later last events data accepted listed clean mode statuses number cleanAll cleanLast
    waits
  obtain ⟨u, started, ran⟩ := exec_data_accepted data accepted listed clean (by simp [dmaBlocked, mode])
  obtain ⟨w, phase, moved, copied, h⟩ := dataPhase_sw_listed (n := n) (dir := dir) (sector := dataSector s arg)
    (buf := s.seq.burst.buf + 512 * s.seq.burst.k) (u := u) (by rw [started.h]; exact mode)
    (started.sts2.trans statuses) number (by rw [started.cfg]; exact cleanAll)
    (by rw [started.events, waits]; cases dir <;> rfl) rfl
  rw [phase, started.cfg, classify_of_clean cleanLast] at ran
  have frame := dataFrame_of_moved (result := none) started (moved_setDma moved)
  have bytes := bytesMoved_of_moved (result := none) started (moved_setDma moved)
  refine ⟨_, ran, frame, rfl, copied, ?_, by cases dir <;> exact bytes⟩
  simp only [endCommand]
  rw [h, started.h]

/-- Settles O20: the engine is armed on a free channel, and the DMA end in time drains it. -/
theorem dmaTransfers : Obligations.DmaTransfers := by
  intro s i dir n arg r v rsp later last events data accepted listed clean mode free statuses cleanLast waits
  have unblocked : dmaBlocked s = false := by rcases free with h | h <;> simp [dmaBlocked, mode, h]
  obtain ⟨u, started, ran⟩ := exec_data_accepted data accepted listed clean unblocked
  obtain ⟨w, phase, seq, h⟩ := dataPhase_dma_drains (n := n) (dir := dir) (sector := dataSector s arg)
    (buf := s.seq.burst.buf + 512 * s.seq.burst.k) (u := u) (drained := true) (by rw [started.h]; exact mode)
    (started.sts2.trans statuses) (by rw [started.cfg]; exact cleanLast) (by rw [started.events, waits]; rfl) rfl
  obtain ⟨k, -, moved, all⟩ := dataPhase_moved dir n (dataSector s arg) (s.seq.burst.buf + 512 * s.seq.burst.k) u
  rw [phase] at ran moved all
  obtain rfl := all rfl
  have frame := dataFrame_of_moved (result := none) started moved
  have bytes := bytesMoved_of_moved (result := none) started moved
  refine ⟨_, ran, frame, rfl, ?_, ?_, by cases dir <;> exact bytes⟩ <;> simp only [endCommand]
  · rw [seq, started.seq]
  · rw [h, started.h]
    rfl

section
variable {s : State} {r : Reply} {arg : Word} {v : PortWord} {rsp : List PortWord} {i : Instr} {dir : Direction} {n : Nat}
  {e : ErrorKind} {last : Sts2} {later : List Sts2} {arrived : Bool} {events : List (Option EventClass)}

/-- R308: a failing access end on the DMA path ends the command and leaves residual state. -/
theorem exec_dma_access_fails (data : isData i s = some (dir, n, arg)) (accepted : Accepted s r)
    (listed : s.env.rsp = v :: rsp) (clean : r1Error s.cfg.pos.r1 (v.setWidth 32) = none) (mode : s.h.xferMode = .dma)
    (free : dmaBlocked s = false) (statuses : r.sts2 = last :: later)
    (wait : awaitEvent [.accessEnd, .dataError] r.events = some (arrived, events))
    (fails : classify s.cfg.pos.sts2 last arrived = some e) :
    ∃ t, exec i s = .next t ∧ t.seq.done = some (.failed e) ∧ t.h.dmaState = .residual ∧ t.seq.copied = 0 := by
  obtain ⟨u, started, ran⟩ := exec_data_accepted data accepted listed clean free
  obtain ⟨w, phase, dma, seq⟩ := dataPhase_dma_access_fails (n := n) (dir := dir) (sector := dataSector s arg)
    (buf := s.seq.burst.buf + 512 * s.seq.burst.k) (u := u) (by rw [started.h]; exact mode)
    (started.sts2.trans statuses) (by rw [started.events]; exact wait) (by rw [started.cfg]; exact fails)
  rw [phase] at ran
  refine ⟨_, ran, rfl, dma, ?_⟩
  simp only [endCommand]
  rw [seq, started.seq]

/-- R308: a DMA end that times out ends the command and leaves residual state. -/
theorem exec_dma_end_late (data : isData i s = some (dir, n, arg)) (accepted : Accepted s r)
    (listed : s.env.rsp = v :: rsp) (clean : r1Error s.cfg.pos.r1 (v.setWidth 32) = none) (mode : s.h.xferMode = .dma)
    (free : dmaBlocked s = false) (statuses : r.sts2 = last :: later) (cleanLast : sts2Error s.cfg.pos.sts2 last = none)
    (wait : awaitEvent [.accessEnd, .dataError] r.events = some (true, events)) {more : List (Option EventClass)}
    (dmaEnd : awaitEvent [.dmaEnd] events = some (false, more)) :
    ∃ t, exec i s = .next t ∧ t.seq.done = some (.failed .timeoutHost) ∧ t.h.dmaState = .residual ∧ t.seq.copied = 0 := by
  obtain ⟨u, started, ran⟩ := exec_data_accepted data accepted listed clean free
  obtain ⟨w, phase, seq, h⟩ := dataPhase_dma_drains (n := n) (dir := dir) (sector := dataSector s arg)
    (buf := s.seq.burst.buf + 512 * s.seq.burst.k) (u := u) (by rw [started.h]; exact mode)
    (started.sts2.trans statuses) (by rw [started.cfg]; exact cleanLast) (by rw [started.events]; exact wait) dmaEnd
  rw [phase] at ran
  refine ⟨_, ran, rfl, ?_, ?_⟩ <;> simp only [endCommand]
  · rw [h]
    rfl
  · rw [seq, started.seq]

/-- R410: a failing wait for a sector on the software path; the sectors before it are copied and counted. -/
theorem exec_sw_sector_fails (data : isData i s = some (dir, n, arg)) (accepted : Accepted s r)
    (listed : s.env.rsp = v :: rsp) (clean : r1Error s.cfg.pos.r1 (v.setWidth 32) = none) (mode : s.h.xferMode = .sw)
    {perSector : List Sts2} (statuses : r.sts2 = perSector ++ last :: later)
    (cleanAll : ∀ x ∈ perSector, sts2Error s.cfg.pos.sts2 x = none) (fails : classify s.cfg.pos.sts2 last arrived = some e)
    {rest : List (Option EventClass)}
    (waits : r.events = List.replicate perSector.length (some (sectorEvent dir)) ++ events) (less : perSector.length < n)
    (wait : awaitEvent [sectorEvent dir, .dataError] events = some (arrived, rest)) :
    ∃ t, exec i s = .next t ∧ t.seq.done = some (.failed e) ∧ t.h.dmaState = s.h.dmaState ∧
      t.seq.copied = perSector.length ∧
      bytesMoved dir s t (dataSector s arg) (s.seq.burst.buf + 512 * s.seq.burst.k) perSector.length := by
  obtain ⟨u, started, ran⟩ := exec_data_accepted data accepted listed clean (by simp [dmaBlocked, mode])
  obtain ⟨w, phase, moved, copied⟩ := dataPhase_sw_stops (n := n) (dir := dir) (sector := dataSector s arg)
    (buf := s.seq.burst.buf + 512 * s.seq.burst.k) (u := u) (by rw [started.h]; exact mode) less
    (started.sts2.trans statuses) (by rw [started.cfg]; exact cleanAll) (by rw [started.events]; exact waits) wait
    (by rw [started.cfg]; exact fails)
  rw [phase] at ran
  refine ⟨_, ran, rfl, ?_, ?_, bytesMoved_of_moved started (moved_setDma moved)⟩ <;> simp only [endCommand]
  · rw [moved.h, started.h]
  · rw [copied, started.seq, Nat.zero_add]

/-- R309: a failing access end on the software path; every sector is copied and none stays counted. -/
theorem exec_sw_access_fails (data : isData i s = some (dir, n, arg)) (accepted : Accepted s r)
    (listed : s.env.rsp = v :: rsp) (clean : r1Error s.cfg.pos.r1 (v.setWidth 32) = none) (mode : s.h.xferMode = .sw)
    {perSector : List Sts2} (statuses : r.sts2 = perSector ++ last :: later)
    (cleanAll : ∀ x ∈ perSector, sts2Error s.cfg.pos.sts2 x = none) (fails : classify s.cfg.pos.sts2 last arrived = some e)
    {rest : List (Option EventClass)}
    (waits : r.events = List.replicate perSector.length (some (sectorEvent dir)) ++ events) (all : perSector.length = n)
    (wait : awaitEvent [.accessEnd, .dataError] events = some (arrived, rest)) :
    ∃ t, exec i s = .next t ∧ t.seq.done = some (.failed e) ∧ t.h.dmaState = s.h.dmaState ∧ t.seq.copied = 0 ∧
      bytesMoved dir s t (dataSector s arg) (s.seq.burst.buf + 512 * s.seq.burst.k) n := by
  obtain ⟨u, started, ran⟩ := exec_data_accepted data accepted listed clean (by simp [dmaBlocked, mode])
  obtain ⟨w, phase, moved, copied, h⟩ := dataPhase_sw_listed (n := n) (dir := dir) (sector := dataSector s arg)
    (buf := s.seq.burst.buf + 512 * s.seq.burst.k) (u := u) (by rw [started.h]; exact mode)
    (started.sts2.trans statuses) all (by rw [started.cfg]; exact cleanAll)
    (by rw [started.events, waits, all]) wait
  rw [phase, started.cfg, fails] at ran
  refine ⟨_, ran, rfl, ?_, copied, bytesMoved_of_moved started (moved_setDma moved)⟩
  simp only [endCommand]
  rw [h, started.h]

/-- R181: a failing ready wait of a register-data command is its result, and the register is not written. -/
theorem exec_registerData_not_ready (accepted : Accepted s r) (listed : s.env.rsp = v :: rsp)
    (clean : r1Error s.cfg.pos.r1 (v.setWidth 32) = none) (statuses : r.sts2 = last :: later)
    (buffer : awaitEvent [.bufReady, .dataError] r.events = some (arrived, events))
    (fails : classify s.cfg.pos.sts2 last arrived = some e) :
    (∃ t, exec (.acmd13 arg) s = .next t ∧ t.seq.done = some (.failed e) ∧ t.h.sdStatus = s.h.sdStatus) ∧
    (∃ t, exec (.acmd22 arg) s = .next t ∧ t.seq.done = some (.failed e) ∧ t.seq.wrCount = s.seq.wrCount) ∧
    (∃ t, exec (.acmd51 arg) s = .next t ∧ t.seq.done = some (.failed e) ∧ t.h.scr = s.h.scr) := by
  obtain ⟨ran13, ran22, ran51⟩ := exec_of_registerData accepted listed clean arg
  have stops : ∀ (cmd : Indices → BitVec 6) (n : Nat) (store : List Byte → State → State),
      ∃ log, readRegData n store (statusTaken v rsp (issued s r cmd arg .r1 .acmd)) =
        (some e, waitOver last later events log (statusTaken v rsp (issued s r cmd arg .r1 .acmd))) :=
    fun cmd n store => readRegData_not_ready n store statuses buffer fails
  refine ⟨?_, ?_, ?_⟩
  · obtain ⟨log, phase⟩ := stops (·.acmd13) 64 storeSdStatus
    rw [phase] at ran13
    exact ⟨_, ran13, rfl, rfl⟩
  · obtain ⟨log, phase⟩ := stops (·.acmd22) 4 storeWrCount
    rw [phase] at ran22
    exact ⟨_, ran22, rfl, rfl⟩
  · obtain ⟨log, phase⟩ := stops (·.acmd51) 8 storeScr
    rw [phase] at ran51
    exact ⟨_, ran51, rfl, rfl⟩

theorem drawBytes_h (n : Nat) (s : State) : (drawBytes n s).2.h = s.h := by rw [drawBytes_env]

theorem statusTaken_pos (cmd : Indices → BitVec 6) (kind : RespKind) (tc : TimeoutClass) :
    (statusTaken v rsp (issued s r cmd arg kind tc)).cfg.pos = s.cfg.pos := rfl

/-- R181: a failing access-end wait of a register-data command is its result; no other image changes. -/
theorem exec_registerData_access_fails (accepted : Accepted s r) (listed : s.env.rsp = v :: rsp)
    (clean : r1Error s.cfg.pos.r1 (v.setWidth 32) = none) {ready : Sts2} (statuses : r.sts2 = ready :: last :: later)
    (readyClean : sts2Error s.cfg.pos.sts2 ready = none)
    (buffer : awaitEvent [.bufReady, .dataError] r.events = some (true, events)) {rest : List (Option EventClass)}
    (wait : awaitEvent [.accessEnd, .dataError] events = some (arrived, rest))
    (fails : classify s.cfg.pos.sts2 last arrived = some e) :
    (∃ t, exec (.acmd13 arg) s = .next t ∧ t.seq.done = some (.failed e) ∧ t.h.scr = s.h.scr) ∧
    (∃ t, exec (.acmd22 arg) s = .next t ∧ t.seq.done = some (.failed e) ∧ t.h.scr = s.h.scr) ∧
    (∃ t, exec (.acmd51 arg) s = .next t ∧ t.seq.done = some (.failed e) ∧ t.h.sdStatus = s.h.sdStatus) := by
  obtain ⟨ran13, ran22, ran51⟩ := exec_of_registerData accepted listed clean arg
  refine ⟨?_, ?_, ?_⟩
  · obtain ⟨log, log', phase⟩ := readRegData_listed 64 storeSdStatus_quiet
      (s := statusTaken v rsp (issued s r (·.acmd13) arg .r1 .acmd)) statuses readyClean buffer wait
    rw [phase, statusTaken_pos, fails] at ran13
    refine ⟨_, ran13, rfl, ?_⟩
    simp [endCommand, waitOver, storeSdStatus, drawBytes_h, statusTaken, responded, issued]
  · obtain ⟨log, log', phase⟩ := readRegData_listed 4 storeWrCount_quiet
      (s := statusTaken v rsp (issued s r (·.acmd22) arg .r1 .acmd)) statuses readyClean buffer wait
    rw [phase, statusTaken_pos, fails] at ran22
    refine ⟨_, ran22, rfl, ?_⟩
    simp [endCommand, waitOver, storeWrCount, drawBytes_h, statusTaken, responded, issued]
  · obtain ⟨log, log', phase⟩ := readRegData_listed 8 storeScr_quiet
      (s := statusTaken v rsp (issued s r (·.acmd51) arg .r1 .acmd)) statuses readyClean buffer wait
    rw [phase, statusTaken_pos, fails] at ran51
    refine ⟨_, ran51, rfl, ?_⟩
    simp [endCommand, waitOver, storeScr, drawBytes_h, statusTaken, responded, issued]

end

/-- Settles O21: each failing wait of the three data phases, by the path's own lemma. -/
theorem dataPhaseFailures : Obligations.DataPhaseFailures := by
  intro s r arg v rsp accepted listed clean
  refine ⟨fun i dir n data mode => ⟨fun busy => ?_, fun free last later arrived events statuses wait =>
      ⟨fun e fails => ?_, ?_⟩⟩,
    fun i dir n perSector last later events rest arrived e data mode statuses cleanAll fails => ?_,
    fun first later events arrived e statuses fails buffer =>
      exec_registerData_not_ready accepted listed clean statuses buffer (classify_of_fails fails),
    fun first last later events rest arrived e statuses readyClean fails buffer wait =>
      exec_registerData_access_fails accepted listed clean statuses readyClean buffer wait (classify_of_fails fails)⟩
  · exact exec_data_blocked data accepted listed clean (by rcases busy with h | h <;> simp [dmaBlocked, mode, h])
  · have unblocked : dmaBlocked s = false := by rcases free with h | h <;> simp [dmaBlocked, h]
    exact exec_dma_access_fails data accepted listed clean mode unblocked statuses wait (classify_of_fails fails)
  · have unblocked : dmaBlocked s = false := by rcases free with h | h <;> simp [dmaBlocked, h]
    rintro cleanLast rfl more dmaEnd
    exact exec_dma_end_late data accepted listed clean mode unblocked statuses cleanLast wait dmaEnd
  · cases dir
    all_goals exact fun waits =>
      ⟨exec_sw_sector_fails data accepted listed clean mode statuses cleanAll (classify_of_fails fails) waits,
        exec_sw_access_fails data accepted listed clean mode statuses cleanAll (classify_of_fails fails) waits⟩

end Sys2Proof.Proofs
end

section
/-! The invariant at one phase: what a running operation has at every phase, what a mount and a transfer have, and the
commands that a phase spells. The control steps' soundness is assembled from these (R31, R222, R299, R400). -/

namespace Sys2Proof.Proofs

open Sys2Proof Sys2Proof.Machine Sys2Proof.Claims Sys2Proof.Laws

/-! ### The phase-free part of the invariant -/

/-- The parts of the state of which the invariant speaks at every phase alike. -/
def standing (s : State) :=
  ((s.cfg, s.mem, s.card, s.h.irqMask, s.h.inFlight, s.h.opActive, s.h.clockOn, s.h.rca, s.h.dmaState, s.h.xferMode),
    s.h.mountState, s.h.req, s.h.stickyError, s.seq.selected, s.seq.aborting)

/-- What a running operation has at every phase. -/
structure Running (s : State) : Prop where
  index : s.cfg.index.wf = true
  maskEmpty : s.h.irqMask = []
  nothingInFlight : s.h.inFlight = false
  bufferWf : s.mem.wf = true
  cardWf : s.card.wf = true
  active : s.h.opActive = true
  clock : s.h.clockOn = true
  addressed : s.h.rca.written = true
  disarmed : s.h.dmaState ≠ .armed
  owned : s.h.dmaState ≠ .idle ∨ s.h.xferMode = .dma → s.cfg.dmaCapable = true

/-- A running operation that may be at phase `p` with no failed command. -/
structure Placed (p : Phase) (s : State) : Prop extends Running s where
  drained : s.h.dmaState ≠ .residual
  mounting : p.isMount = true → s.h.mountState = .unmounted ∧ s.h.req = none
  transferring : p.isTransfer = true → s.h.mountState = .mountedUnlocked ∧ s.h.req.isSome = true ∧ s.seq.selected = true
  recorded : p ≠ .recovery → s.h.stickyError = if s.seq.aborting then some .stopped else none
  aborts : s.seq.aborting = true → p = .xStop ∨ p = .recovery

/-- A mount between commands: nothing recorded, no card mounted. -/
structure Mounting (s : State) : Prop extends Running s where
  drained : s.h.dmaState ≠ .residual
  unmounted : s.h.mountState = .unmounted
  noRequest : s.h.req = none
  errorFree : s.h.stickyError = none
  going : s.seq.aborting = false

/-- A transfer between commands: nothing recorded, a request of a selected and unlocked card. -/
structure Transferring (s : State) : Prop extends Running s where
  drained : s.h.dmaState ≠ .residual
  mounted : s.h.mountState = .mountedUnlocked
  request : s.h.req.isSome = true
  selected : s.seq.selected = true
  errorFree : s.h.stickyError = none
  going : s.seq.aborting = false

section
variable {s t : State} {p : Phase}

/-- `Running` speaks of the first half of `standing`. -/
theorem Running.of_standing (r : Running s) (same : (standing t).1 = (standing s).1) : Running t := by
  simp only [standing, Prod.mk.injEq] at same
  obtain ⟨cfg, mem, card, mask, flight, active, clock, rca, dma, mode⟩ := same
  constructor
  case index => rw [cfg]; exact r.index
  case maskEmpty => rw [mask]; exact r.maskEmpty
  case nothingInFlight => rw [flight]; exact r.nothingInFlight
  case bufferWf => rw [mem]; exact r.bufferWf
  case cardWf => rw [card]; exact r.cardWf
  case active => rw [active]; exact r.active
  case clock => rw [clock]; exact r.clock
  case addressed => rw [rca]; exact r.addressed
  case disarmed => rw [dma]; exact r.disarmed
  case owned => rw [dma, mode, cfg]; exact r.owned

theorem Mounting.of_standing (m : Mounting s) (same : standing t = standing s) : Mounting t := by
  have running := m.toRunning.of_standing (congrArg Prod.fst same)
  simp only [standing, Prod.mk.injEq] at same
  obtain ⟨⟨-, -, -, -, -, -, -, -, dma, -⟩, mounted, req, sticky, -, aborting⟩ := same
  exact { running with
    drained := by rw [dma]; exact m.drained
    unmounted := mounted.trans m.unmounted
    noRequest := req.trans m.noRequest
    errorFree := sticky.trans m.errorFree
    going := aborting.trans m.going }

theorem Transferring.of_standing (x : Transferring s) (same : standing t = standing s) : Transferring t := by
  have running := x.toRunning.of_standing (congrArg Prod.fst same)
  simp only [standing, Prod.mk.injEq] at same
  obtain ⟨⟨-, -, -, -, -, -, -, -, dma, -⟩, mounted, req, sticky, selected, aborting⟩ := same
  exact { running with
    drained := by rw [dma]; exact x.drained
    mounted := mounted.trans x.mounted
    request := by rw [req]; exact x.request
    selected := selected.trans x.selected
    errorFree := sticky.trans x.errorFree
    going := aborting.trans x.going }

theorem Placed.of_standing (placed : Placed p s) (same : standing t = standing s) : Placed p t := by
  have running := placed.toRunning.of_standing (congrArg Prod.fst same)
  simp only [standing, Prod.mk.injEq] at same
  obtain ⟨⟨-, -, -, -, -, -, -, -, dma, -⟩, mounted, req, sticky, selected, aborting⟩ := same
  exact { running with
    drained := by rw [dma]; exact placed.drained
    mounting := by rw [mounted, req]; exact placed.mounting
    transferring := by rw [mounted, req, selected]; exact placed.transferring
    recorded := by rw [sticky, aborting]; exact placed.recorded
    aborts := by rw [aborting]; exact placed.aborts }

/-- A mount may be at each of its phases. -/
theorem Mounting.placed (m : Mounting s) (phase : p.isMount = true) : Placed p s :=
  { m.toRunning with
    drained := m.drained
    mounting := fun _ => ⟨m.unmounted, m.noRequest⟩
    transferring := fun other => by cases p <;> cases phase <;> cases other
    recorded := fun _ => by rw [m.going]; exact m.errorFree
    aborts := fun aborting => by rw [m.going] at aborting; cases aborting }

/-- A transfer may be at each of its phases. -/
theorem Transferring.placed (x : Transferring s) (phase : p.isTransfer = true) : Placed p s :=
  { x.toRunning with
    drained := x.drained
    mounting := fun other => by cases p <;> cases phase <;> cases other
    transferring := fun _ => ⟨x.mounted, x.request, x.selected⟩
    recorded := fun _ => by rw [x.going]; exact x.errorFree
    aborts := fun aborting => by rw [x.going] at aborting; cases aborting }

end

/-! ### Images -/

/-- The images that are written throughout a phase (R39). -/
def imagesHeld (p : Phase) (h : Handle) : Prop :=
  match p with
  | .mDsr | .mScr | .mSdStatus => h.csd.written
  | .mGeometry | .mSelect | .mBlockLen | .mBusWidth | .mClrStatus =>
    h.csd.written ∧ (h.mediaKind ≠ .mmc → h.scr.written)
  | _ => True

theorem imagesHeld_of_ready {s : State} (images : imagesReady s) : imagesHeld s.h.phase s.h := by
  unfold imagesReady at images
  unfold imagesHeld
  cases phase : s.h.phase <;> rw [phase] at images <;> simp_all

theorem imagesReady_of_held {s : State} (held : imagesHeld s.h.phase s.h) (unanswered : s.seq.done ≠ some .ok) :
    imagesReady s := by
  unfold imagesHeld at held
  unfold imagesReady
  cases phase : s.h.phase <;> rw [phase] at held <;> simp_all

/-! ### States that stay sound -/

/-- The answer of a step that the engine takes by itself: a next state, and a sound one. -/
def Sound (r : Result) : Prop := ∃ t, r = .next t ∧ Inv t

theorem Sound.next {t : State} (inv : Inv t) : Sound (.next t) := ⟨t, rfl, inv⟩

/-- The frame `f`, announced or not, is of one of the commands of phase `p`. -/
def Spells (p : Phase) (t : Indices) (app : Bool) (f : Frame) : Prop :=
  ∃ i, decode t (.wire app f) = .ok i ∧ phaseCommand p i = true

theorem spells_cmd {p : Phase} {t : Indices} {index : BitVec 6} {arg : Word} {i : Instr} (wf : t.wf = true)
    (row : (index, i) ∈ cmdRows t arg) (fits : phaseCommand p i = true) : Spells p t false ⟨frameHead index, arg⟩ :=
  ⟨i, decode_cmd (decodeCmd_row wf row), fits⟩

theorem spells_acmd {p : Phase} {t : Indices} {index : BitVec 6} {arg : Word} {i : Instr} (wf : t.wf = true)
    (row : (index, i) ∈ acmdRows t arg) (fits : phaseCommand p i = true) : Spells p t true ⟨frameHead index, arg⟩ :=
  ⟨i, decode_acmd (decodeAcmd_row wf row), fits⟩

/-- The phases at which a running operation can stand with a command staged. -/
def issuesCommand (p : Phase) : Bool := !p.isAlone && !decide (p = .idle) && !decide (p = .xCheck) && !decide (p = .hostOp)

section
variable {s : State} {p : Phase} {f : Frame} {app : Bool}

/-- The invariant of a running operation at its phase, from the parts. -/
theorem Placed.inv (placed : Placed s.h.phase s) (stays : s.h.phase ≠ .idle ∧ s.h.phase ≠ .xCheck ∧ s.h.phase ≠ .hostOp)
    (command : if s.h.phase.isAlone then s.seq.staged = none ∧ s.seq.done = none
      else (s.seq.staged.isSome = true ∧ s.seq.done = none) ∨ (s.seq.staged = none ∧ s.seq.done.isSome = true))
    (spells : ∀ f, s.seq.staged = some f → Spells s.h.phase s.cfg.index s.seq.app f) (images : imagesReady s)
    (saved : s.h.phase = .recovery → s.h.stickyError.isSome = true ∧ s.seq.saved = s.h.stickyError) : Inv s where
  maskEmpty := placed.maskEmpty
  nothingInFlight := placed.nothingInFlight
  bufferWf := placed.bufferWf
  cardWf := placed.cardWf
  busyIff := ⟨fun _ => stays.1, fun _ => placed.active⟩
  phaseStays := stays.2
  idleClean := fun idle => by rw [placed.active] at idle; cases idle
  clockRuns := fun _ => placed.clock
  commandOrResult := fun _ => command
  stagedFits := spells
  images := images
  addressed := fun _ => placed.addressed
  mountUnmounted := placed.mounting
  transferMounted := placed.transferring
  dmaQuiet := ⟨placed.disarmed, fun residual => absurd residual placed.drained⟩
  dmaOwned := placed.owned
  recoverySaved := saved
  noErrorYet := fun _ => placed.recorded
  abortingStops := fun aborting _ => placed.aborts aborting

/-- A command of its phase, spelled. -/
theorem Placed.staged (placed : Placed p s) (issues : issuesCommand p = true) (held : imagesHeld p s.h)
    (spells : Spells p s.cfg.index app f)
    (saved : p = .recovery → s.h.stickyError.isSome = true ∧ s.seq.saved = s.h.stickyError) :
    Inv { s with h.phase := p, seq.staged := some f, seq.done := none, seq.app := app } := by
  simp only [issuesCommand, Bool.and_eq_true, Bool.not_eq_true', decide_eq_false_iff_not] at issues
  obtain ⟨⟨⟨notAlone, notIdle⟩, notCheck⟩, notHostOp⟩ := issues
  refine Placed.inv (s := { s with h.phase := p, seq.staged := some f, seq.done := none, seq.app := app })
    (placed.of_standing rfl) ⟨notIdle, notCheck, notHostOp⟩ ?_ ?_ ?_ saved
  · simp [notAlone]
  · rintro g ⟨⟩
    exact spells
  · refine imagesReady_of_held ?_ nofun
    unfold imagesHeld at held ⊢
    cases p <;> exact held

/-- A phase without a command, entered. -/
theorem Placed.entered (placed : Placed p s) (alone : p.isAlone = true) (held : imagesHeld p s.h) :
    Inv (enterPhase p s) := by
  refine Placed.inv (s := enterPhase p s)
    (placed.of_standing rfl) ?_ ?_ nofun ?_ ?_
  · cases p <;> cases alone <;> exact ⟨nofun, nofun, nofun⟩
  · simp [enterPhase, alone]
  · refine imagesReady_of_held ?_ nofun
    unfold imagesHeld at held ⊢
    cases p <;> exact held
  · intro recovery
    obtain rfl : p = .recovery := recovery
    cases alone

theorem Placed.stage (placed : Placed p s) {cmd : Indices → BitVec 6} {arg : Word} {i : Instr} (issues : issuesCommand p = true)
    (held : imagesHeld p s.h) (row : (cmd s.cfg.index, i) ∈ cmdRows s.cfg.index arg) (fits : phaseCommand p i = true)
    (saved : p = .recovery → s.h.stickyError.isSome = true ∧ s.seq.saved = s.h.stickyError) :
    Inv (stage p cmd arg s) :=
  placed.staged issues held (spells_cmd placed.index row fits) saved

theorem Placed.stageRca (placed : Placed p s) {cmd : Indices → BitVec 6} {instr : Word → Instr} (issues : issuesCommand p = true)
    (held : imagesHeld p s.h) (row : ∀ arg, (cmd s.cfg.index, instr arg) ∈ cmdRows s.cfg.index arg)
    (fits : ∀ arg, phaseCommand p (instr arg) = true)
    (saved : p = .recovery → s.h.stickyError.isSome = true ∧ s.seq.saved = s.h.stickyError) :
    Sound (stageRca p cmd s) := by
  obtain ⟨rca, written⟩ := (CardRegister.written_iff _).1 placed.addressed
  exact ⟨_, stageRca_written written, placed.stage issues held (row _) (fits _) saved⟩

theorem Placed.stageAcmd (placed : Placed p s) {cmd : Indices → BitVec 6} {arg : Word} {i : Instr} (announced : s.seq.app = true)
    (issues : issuesCommand p = true) (held : imagesHeld p s.h) (row : (cmd s.cfg.index, i) ∈ acmdRows s.cfg.index arg)
    (fits : phaseCommand p i = true) (ordinary : p ≠ .recovery) : Inv (stageAcmd p cmd arg s) := by
  have same : Machine.stageAcmd p cmd arg s = { s with
      h.phase := p, seq.staged := some ⟨frameHead (cmd s.cfg.index), arg⟩, seq.done := none, seq.app := true } := by
    rw [Machine.stageAcmd, ← announced]
  rw [same]
  exact placed.staged issues held (spells_acmd placed.index row fits) fun recovery => absurd recovery ordinary

end

/-! ### Idle channels -/

/-- What an idle channel has (R51, R52, R57). -/
structure Resting (s : State) : Prop where
  maskEmpty : s.h.irqMask = []
  nothingInFlight : s.h.inFlight = false
  bufferWf : s.mem.wf = true
  cardWf : s.card.wf = true
  idle : s.h.opActive = false
  phase : s.h.phase = .idle
  clock : s.h.clockOn = false
  unstaged : s.seq.staged = none
  answered : s.seq.done = none
  noRequest : s.h.req = none
  addressed : s.h.mountState ≠ .unmounted → s.h.rca.written = true
  disarmed : s.h.dmaState ≠ .armed
  drained : s.h.dmaState ≠ .residual
  owned : s.h.dmaState ≠ .idle ∨ s.h.xferMode = .dma → s.cfg.dmaCapable = true

section
variable {s : State}

theorem Resting.inv (r : Resting s) : Inv s where
  maskEmpty := r.maskEmpty
  nothingInFlight := r.nothingInFlight
  bufferWf := r.bufferWf
  cardWf := r.cardWf
  busyIff := by simp [r.idle, r.phase]
  phaseStays := by simp [r.phase]
  idleClean := fun _ => ⟨r.clock, r.unstaged, r.answered, r.noRequest⟩
  clockRuns := fun active => by rw [r.idle] at active; cases active
  commandOrResult := fun active => by rw [r.idle] at active; cases active
  stagedFits := fun f staged => by rw [r.unstaged] at staged; cases staged
  images := by unfold imagesReady; rw [r.phase]; trivial
  addressed := fun cause => r.addressed (cause.resolve_left fun busy => busy r.phase)
  mountUnmounted := fun mount => by rw [r.phase] at mount; cases mount
  transferMounted := fun transfer => by rw [r.phase] at transfer; cases transfer
  dmaQuiet := ⟨r.disarmed, fun residual => absurd residual r.drained⟩
  dmaOwned := r.owned
  recoverySaved := fun recovery => by rw [r.phase] at recovery; cases recovery
  noErrorYet := fun active => by rw [r.idle] at active; cases active
  abortingStops := fun _ active => by rw [r.idle] at active; cases active

theorem Resting.of_inv (inv : Inv s) (idle : s.h.opActive = false) : Resting s := by
  have phase : s.h.phase = .idle := by
    by_contra busy
    rw [inv.busyIff.2 busy] at idle
    cases idle
  obtain ⟨clock, unstaged, answered, noRequest⟩ := inv.idleClean idle
  refine ⟨inv.maskEmpty, inv.nothingInFlight, inv.bufferWf, inv.cardWf, idle, phase, clock, unstaged, answered, noRequest,
    fun mounted => inv.addressed (.inr mounted), inv.dmaQuiet.1, fun residual => ?_, inv.dmaOwned⟩
  obtain ⟨-, e, failed⟩ := inv.dmaQuiet.2 residual
  rw [answered] at failed
  cases failed

/-- An operation returns with its clock halted and its DMA engine at rest (R272, R330, R383). -/
theorem Running.finished (r : Running s) (drained : s.h.dmaState ≠ .residual) (own : Word) :
    Inv (finish own (haltClock s)) :=
  Resting.inv ⟨r.maskEmpty, r.nothingInFlight, r.bufferWf, r.cardWf, rfl, rfl, rfl, rfl, rfl, rfl, fun _ => r.addressed,
    r.disarmed, drained, r.owned⟩

/-! ### Recovery -/

/-- Recovery's entry leaves the DMA engine idle, or as it was on a channel without one (R402). -/
theorem recoveryEntry_placed (r : Running s) (recorded : s.h.stickyError.isSome = true) :
    Placed .recovery (recoveryEntry s) ∧ (recoveryEntry s).h.stickyError.isSome = true ∧
      (recoveryEntry s).seq.saved = (recoveryEntry s).h.stickyError := by
  have frame := recoveryEntry_frame s
  have dma : (recoveryEntry s).h.dmaState = .idle := by
    rw [frame.h]
    by_cases capable : s.cfg.dmaCapable = true
    · simp [capable]
    · by_contra busy
      simp only [capable, Bool.false_eq_true, if_false] at busy
      exact capable (r.owned (.inl busy))
  refine ⟨⟨⟨?_, ?_, ?_, ?_, ?_, ?_, ?_, ?_, ?_, ?_⟩, ?_, nofun, nofun, fun other => absurd rfl other, fun _ => .inr rfl⟩, ?_, ?_⟩
  · rw [frame.cfg]; exact r.index
  · rw [frame.h]
  · rw [frame.h]
  · rw [frame.mem]; exact r.bufferWf
  · rw [frame.card]; exact r.cardWf
  · rw [frame.h]; exact r.active
  · rw [frame.h]; exact r.clock
  · rw [frame.h]; exact r.addressed
  · rw [dma]; nofun
  · rw [dma, frame.cfg, frame.h]
    exact fun cause => r.owned (.inr (cause.resolve_left fun busy => busy rfl))
  · rw [dma]; nofun
  · rw [frame.h]; exact recorded
  · rw [frame.seq, frame.h]

/-- Recovery of a recorded error: the status poll, or the return (R400–R406). -/
theorem recover_sound (r : Running s) (recorded : s.h.stickyError.isSome = true) : Sound (recover s) := by
  obtain ⟨placed, sticky, saved⟩ := recoveryEntry_placed r recorded
  rcases recover_cases s with ⟨-, ran⟩ | ⟨-, ran⟩ <;> rw [ran]
  · exact placed.stageRca (instr := .cmd13) rfl trivial (by simp [cmdRows]) (fun _ => rfl) fun _ => ⟨sticky, saved⟩
  · exact .next (Running.finished (s := { recoveryEntry s with h.stickyError := (recoveryEntry s).seq.saved })
      (placed.toRunning.of_standing rfl) placed.drained okResult)

/-- `raise e` from any running operation (R24). -/
theorem raise_sound (r : Running s) (e : ErrorKind) : Sound (raise e s) :=
  recover_sound (s := setError e s) (r.of_standing rfl) rfl

/-- R404: recovery's status poll is followed by its return, or by one CMD12. -/
theorem afterRecoveryCommand_sound (placed : Placed .recovery s) (sticky : s.h.stickyError.isSome = true)
    (saved : s.seq.saved = s.h.stickyError) (r : CmdResult) : Sound (afterRecoveryCommand r s) := by
  have returns : Sound (.next (recoveryReturn s)) :=
    .next (Running.finished (s := { s with h.stickyError := s.seq.saved })
      (placed.toRunning.of_standing rfl) placed.drained okResult)
  unfold afterRecoveryCommand
  split
  · exact returns
  · split
    · exact returns
    · exact .next (Placed.stage (i := .cmd12 0#32) (s := { s with seq.polled := true }) (placed.of_standing rfl) rfl trivial
        (by simp [cmdRows]) rfl fun _ => ⟨sticky, saved⟩)

end

end Sys2Proof.Proofs
end

section
/-! Every control step of a mount and of a transfer goes on to a sound state (R222–R264, R299–R331). -/

namespace Sys2Proof.Proofs

open Sys2Proof Sys2Proof.Machine Sys2Proof.Claims Sys2Proof.Laws

/-! ### The mount -/

section
variable {s : State} {r : CmdResult} {p : Phase}

/-- A mount's next plain command. -/
theorem Mounting.stages (m : Mounting s) {cmd : Indices → BitVec 6} {arg : Word} (instr : Word → Instr)
    (row : (cmd s.cfg.index, instr arg) ∈ cmdRows s.cfg.index arg) (fits : phaseCommand p (instr arg) = true) (held : imagesHeld p s.h)
    (phase : p.isMount = true) (issues : issuesCommand p = true) : Sound (.next (stage p cmd arg s)) :=
  .next ((m.placed phase).stage issues held row fits fun recovery => by subst recovery; cases phase)

/-- A mount's next command with the card's address. -/
theorem Mounting.stagesRca (m : Mounting s) {cmd : Indices → BitVec 6} (instr : Word → Instr)
    (row : ∀ arg, (cmd s.cfg.index, instr arg) ∈ cmdRows s.cfg.index arg)
    (fits : ∀ arg, phaseCommand p (instr arg) = true) (held : imagesHeld p s.h) (phase : p.isMount = true)
    (issues : issuesCommand p = true) : Sound (stageRca p cmd s) :=
  (m.placed phase).stageRca issues held row fits fun recovery => by subst recovery; cases phase

/-- A mount's announced command. -/
theorem Mounting.stagesAcmd (m : Mounting s) {cmd : Indices → BitVec 6} {arg : Word} (instr : Word → Instr) (announced : s.seq.app = true)
    (row : (cmd s.cfg.index, instr arg) ∈ acmdRows s.cfg.index arg) (fits : phaseCommand p (instr arg) = true) (held : imagesHeld p s.h)
    (phase : p.isMount = true) (issues : issuesCommand p = true) : Sound (.next (stageAcmd p cmd arg s)) :=
  .next ((m.placed phase).stageAcmd announced issues held row fits fun recovery => by subst recovery; cases phase)

/-- An image that has been written is read without a fault. -/
theorem Sound.withImage {w : Nat} {image : CardRegister w} {k : BitVec w → Result} (written : image.written = true)
    (sound : ∀ v, Sound (k v)) : Sound (withImage image k) := by
  rw [Machine.withImage, if_pos written]
  exact sound _

theorem startReset_sound (m : Mounting s) (resume : ResetResume) : Sound (.next (startReset resume s)) :=
  Mounting.stages (m.of_standing (by rfl)) .cmd0 (by simp [cmdRows]) rfl (by trivial) rfl rfl

theorem startOcrSd_sound (m : Mounting s) : Sound (startOcrSd s) :=
  Mounting.stagesRca (m.of_standing (by rfl)) .cmd55 (by simp [cmdRows]) (fun _ => rfl) (by trivial) rfl rfl

theorem idleReached_sound (m : Mounting s) : Sound (idleReached s) := by
  unfold idleReached
  split
  · split
    · exact m.stages .cmd8 (by simp [cmdRows]) rfl (by trivial) rfl rfl
    · exact startOcrSd_sound (m.of_standing (by rfl))
  · exact startOcrSd_sound m
  · exact Mounting.stages (m.of_standing (by rfl)) .cmd1 (by simp [cmdRows]) rfl (by trivial) rfl rfl

theorem afterReset_sound (m : Mounting s) : Sound (afterReset r s) := by
  cases r with
  | ok => exact idleReached_sound m
  | failed e =>
    unfold afterReset
    dsimp only
    split
    · exact raise_sound m.toRunning e
    · exact Mounting.stages (m.of_standing (by rfl)) .cmd0 (by simp [cmdRows]) rfl (by trivial) rfl rfl

theorem afterIfCond_sound (m : Mounting s) (image : r = .ok → s.h.ifCond.written = true) : Sound (afterIfCond r s) := by
  cases r with
  | failed e => exact startReset_sound (m.of_standing (by rfl)) _
  | ok =>
    unfold afterIfCond
    dsimp only
    refine .withImage (image rfl) fun v => ?_
    split
    · exact raise_sound m.toRunning _
    · split
      · exact raise_sound m.toRunning _
      · exact startOcrSd_sound (m.of_standing (by rfl))

theorem afterOcrSd_sound (m : Mounting s) (image : r = .ok → s.seq.app = false → s.h.ocr.written = true) :
    Sound (afterOcrSd r s) := by
  cases r with
  | failed e => exact startReset_sound m _
  | ok =>
    unfold afterOcrSd
    dsimp only
    split
    case isTrue announced => exact m.stagesAcmd .acmd41 announced (by simp [acmdRows]) rfl (by trivial) rfl rfl
    case isFalse plain =>
      refine .withImage (image rfl (Bool.eq_false_iff.2 plain)) fun ocr => ?_
      split
      · exact Mounting.stages (m.of_standing (by rfl)) .cmd2 (by simp [cmdRows]) rfl (by trivial) rfl rfl
      · split
        · exact startReset_sound (m.of_standing (by rfl)) _
        · exact Mounting.stagesRca (m.of_standing (by rfl)) .cmd55 (by simp [cmdRows]) (fun _ => rfl) (by trivial) rfl rfl

theorem afterOcrMmc_sound (m : Mounting s) (image : r = .ok → s.h.ocr.written = true) : Sound (afterOcrMmc r s) := by
  cases r with
  | failed e => exact raise_sound m.toRunning _
  | ok =>
    unfold afterOcrMmc
    dsimp only
    refine .withImage (image rfl) fun ocr => ?_
    split
    · exact Mounting.stages (m.of_standing (by rfl)) .cmd2 (by simp [cmdRows]) rfl (by trivial) rfl rfl
    · split
      · exact raise_sound (m.toRunning.of_standing (by rfl)) _
      · exact Mounting.stages (m.of_standing (by rfl)) .cmd1 (by simp [cmdRows]) rfl (by trivial) rfl rfl

/-- A CMD3, under either of its two meanings. -/
theorem stage_cmd3_sound (m : Mounting s) (arg : Word) : Sound (.next (stage .mRca (·.cmd3) arg s)) :=
  m.stages (fun arg => if assignsAddress arg then .cmd3Mmc arg else .cmd3Sd arg) (by simp [cmdRows]) (by split <;> rfl)
    (by trivial) rfl rfl

theorem afterCid_sound (m : Mounting s) : Sound (afterCid r s) := by
  cases r with
  | failed e => exact raise_sound m.toRunning e
  | ok =>
    unfold afterCid
    dsimp only
    split
    · exact stage_cmd3_sound m _
    · exact stage_cmd3_sound (m.of_standing (by rfl)) _

theorem afterRca_sound (m : Mounting s) : Sound (afterRca r s) := by
  cases r with
  | failed e => exact raise_sound m.toRunning e
  | ok =>
    unfold afterRca
    dsimp only
    refine .withImage m.addressed fun rca => ?_
    split
    · exact m.stages .cmd9 (by simp [cmdRows]) rfl (by trivial) rfl rfl
    · split
      · exact raise_sound m.toRunning _
      · exact stage_cmd3_sound (m.of_standing (by rfl)) _

theorem toScr_sound (m : Mounting s) (csd : s.h.csd.written = true) : Sound (toScr s) := by
  unfold toScr
  split
  case isTrue mmc => exact .next ((m.placed rfl).entered rfl ⟨csd, fun other => absurd mmc other⟩)
  case isFalse => exact m.stagesRca .cmd55 (by simp [cmdRows]) (fun _ => rfl) csd rfl rfl

theorem afterCsd_sound (m : Mounting s) (image : r = .ok → s.h.csd.written = true) : Sound (afterCsd r s) := by
  cases r with
  | failed e => exact raise_sound m.toRunning e
  | ok =>
    unfold afterCsd
    dsimp only
    refine .withImage (image rfl) fun csd => ?_
    split
    · exact m.stages .cmd4 (by simp [cmdRows]) rfl (image rfl) rfl rfl
    · exact toScr_sound m (image rfl)

theorem afterDsr_sound (m : Mounting s) (csd : s.h.csd.written = true) : Sound (afterDsr r s) := by
  cases r with
  | failed e => exact raise_sound m.toRunning e
  | ok => exact toScr_sound m csd

theorem afterScr_sound (m : Mounting s) (csd : s.h.csd.written = true)
    (image : r = .ok → s.seq.app = false → s.h.scr.written = true) : Sound (afterScr r s) := by
  cases r with
  | failed e => exact raise_sound m.toRunning e
  | ok =>
    unfold afterScr
    dsimp only
    split
    case isTrue announced => exact m.stagesAcmd .acmd51 announced (by simp [acmdRows]) rfl csd rfl rfl
    case isFalse plain =>
      have scr := image rfl (Bool.eq_false_iff.2 plain)
      refine .withImage scr fun value => ?_
      exact .next (((m.of_standing (by rfl)).placed rfl).entered rfl ⟨csd, fun _ => scr⟩)

/-- The write-protect pin and the ROM draw touch only the flags (R252). -/
theorem setWriteProtect_h (csd : Image) (s : State) : (setWriteProtect csd s).h =
    { s.h with writeProtectFlags := (setWriteProtect csd s).h.writeProtectFlags } := by
  unfold setWriteProtect sampleWriteProtect
  dsimp only
  split <;> simp

theorem setWriteProtect_standing (csd : Image) (s : State) : standing (setWriteProtect csd s) = standing s := by
  unfold setWriteProtect sampleWriteProtect
  dsimp only
  split <;> simp [standing]

theorem geometry_sound (m : Mounting s) (csd : s.h.csd.written = true)
    (scr : s.h.mediaKind ≠ .mmc → s.h.scr.written = true) : Sound (geometry s) := by
  unfold geometry
  refine .withImage csd fun image => ?_
  split
  · exact raise_sound (m.toRunning.of_standing (by rfl)) _
  · refine Mounting.stagesRca (m.of_standing (by exact setWriteProtect_standing _ _)) .cmd7 (by simp [cmdRows])
      (fun _ => rfl) ?_ rfl rfl
    rw [setWriteProtect_h]
    exact ⟨csd, scr⟩

theorem selectClock_standing (f : ClockFreq) (s : State) : standing (selectClock f s) = standing s := by simp [standing]

theorem afterSelect_sound (m : Mounting s) (csd : s.h.csd.written = true)
    (scr : s.h.mediaKind ≠ .mmc → s.h.scr.written = true) : Sound (afterSelect r s) := by
  cases r with
  | failed e => exact raise_sound m.toRunning e
  | ok =>
    let t := selectClock .fXfer { s with seq.selected := true }
    unfold afterSelect
    dsimp only
    split
    · exact .next (Running.finished (s := { t with h.mountState := .mountedLocked })
        (m.toRunning.of_standing (by simp [standing, t])) (by simp only [t, selectClock_h]; exact m.drained) _)
    · refine Mounting.stages (s := t) ?_ .cmd16 (by simp [cmdRows]) rfl ?_ rfl rfl
      · have before : Mounting { s with seq.selected := true } :=
          ⟨m.toRunning.of_standing rfl, m.drained, m.unmounted, m.noRequest, m.errorFree, m.going⟩
        exact before.of_standing (selectClock_standing _ _)
      · simp only [t, selectClock_h]
        exact ⟨csd, scr⟩

theorem mmcTail_sound (m : Mounting s) (csd : s.h.csd.written = true) : Sound (mmcTail s) :=
  .withImage csd fun _ => .next (((m.of_standing (by rfl)).placed rfl).entered rfl trivial)

theorem toClrStatus_sound (m : Mounting s) (csd : s.h.csd.written = true)
    (scr : s.h.mediaKind ≠ .mmc → s.h.scr.written = true) : Sound (toClrStatus s) := by
  unfold toClrStatus
  split
  · exact mmcTail_sound m csd
  · exact m.stagesRca .cmd55 (by simp [cmdRows]) (fun _ => rfl) ⟨csd, scr⟩ rfl rfl

theorem afterBlockLen_sound (m : Mounting s) (csd : s.h.csd.written = true)
    (scr : s.h.mediaKind ≠ .mmc → s.h.scr.written = true) : Sound (afterBlockLen r s) := by
  cases r with
  | failed e => exact raise_sound m.toRunning e
  | ok =>
    unfold afterBlockLen
    dsimp only
    split
    case isTrue wide =>
      simp only [Bool.and_eq_true, decide_eq_true_eq] at wide
      refine .withImage (scr (by rw [wide.2]; nofun)) fun image => ?_
      split
      · exact m.stagesRca .cmd55 (by simp [cmdRows]) (fun _ => rfl) ⟨csd, scr⟩ rfl rfl
      · exact toClrStatus_sound m csd scr
    case isFalse => exact toClrStatus_sound m csd scr

theorem afterBusWidth_sound (m : Mounting s) (csd : s.h.csd.written = true)
    (scr : s.h.mediaKind ≠ .mmc → s.h.scr.written = true) : Sound (afterBusWidth r s) := by
  cases r with
  | failed e => exact raise_sound m.toRunning e
  | ok =>
    unfold afterBusWidth
    dsimp only
    split
    case isTrue announced => exact m.stagesAcmd .acmd6 announced (by simp [acmdRows]) rfl ⟨csd, scr⟩ rfl rfl
    case isFalse => exact toClrStatus_sound m csd scr

theorem afterClrStatus_sound (m : Mounting s) (csd : s.h.csd.written = true)
    (scr : s.h.mediaKind ≠ .mmc → s.h.scr.written = true) : Sound (afterClrStatus r s) := by
  cases r with
  | failed e => exact raise_sound m.toRunning e
  | ok =>
    unfold afterClrStatus
    dsimp only
    split
    case isTrue announced => exact m.stagesAcmd .acmd42 announced (by simp [acmdRows]) rfl ⟨csd, scr⟩ rfl rfl
    case isFalse => exact m.stagesRca .cmd55 (by simp [cmdRows]) (fun _ => rfl) csd rfl rfl

theorem afterSdStatus_sound (m : Mounting s) (csd : s.h.csd.written = true)
    (image : r = .ok → s.seq.app = false → s.h.sdStatus.written = true) : Sound (afterSdStatus r s) := by
  cases r with
  | failed e => exact raise_sound m.toRunning e
  | ok =>
    unfold afterSdStatus
    dsimp only
    split
    case isTrue announced => exact m.stagesAcmd .acmd13 announced (by simp [acmdRows]) rfl csd rfl rfl
    case isFalse plain =>
      exact .withImage csd fun _ => .withImage (image rfl (Bool.eq_false_iff.2 plain)) fun _ =>
        .next (((m.of_standing (by rfl)).placed rfl).entered rfl trivial)

theorem mountDone_sound (m : Mounting s) : Sound (.next (mountDone s)) :=
  .next (Running.finished (s := { s with h.mountState := .mountedUnlocked }) (m.toRunning.of_standing (by rfl)) m.drained _)

end

/-! ### The transfer -/

section
variable {s : State} {r : CmdResult} {p : Phase} {q : TransferRequest}

/-- A transfer's next plain command. -/
theorem Transferring.stages (x : Transferring s) {cmd : Indices → BitVec 6} {arg : Word} (instr : Word → Instr)
    (row : (cmd s.cfg.index, instr arg) ∈ cmdRows s.cfg.index arg) (fits : phaseCommand p (instr arg) = true)
    (phase : p.isTransfer = true) (issues : issuesCommand p = true) : Sound (.next (stage p cmd arg s)) :=
  .next ((x.placed phase).stage issues (by cases p <;> cases phase <;> trivial) row fits fun recovery => by
    subst recovery; cases phase)

/-- A transfer's next command with the card's address. -/
theorem Transferring.stagesRca (x : Transferring s) {cmd : Indices → BitVec 6} (instr : Word → Instr)
    (row : ∀ arg, (cmd s.cfg.index, instr arg) ∈ cmdRows s.cfg.index arg)
    (fits : ∀ arg, phaseCommand p (instr arg) = true) (phase : p.isTransfer = true) (issues : issuesCommand p = true) :
    Sound (stageRca p cmd s) :=
  (x.placed phase).stageRca issues (by cases p <;> cases phase <;> trivial) row fits fun recovery => by
    subst recovery; cases phase

/-- Bytes that spoil keep a running operation running (R96, R107). -/
theorem Running.of_frame {t : State} (run : Running s) (frame : CommandFrame s t) (h : t.h = s.h) : Running t where
  index := by rw [frame.cfg]; exact run.index
  maskEmpty := by rw [h]; exact run.maskEmpty
  nothingInFlight := by rw [h]; exact run.nothingInFlight
  bufferWf := frame.memWf run.bufferWf
  cardWf := frame.cardWf run.cardWf
  active := by rw [h]; exact run.active
  clock := by rw [h]; exact run.clock
  addressed := by rw [h]; exact run.addressed
  disarmed := by rw [h]; exact run.disarmed
  owned := by rw [h, frame.cfg]; exact run.owned

theorem failBurst_sound (run : Running s) (e : ErrorKind) : Sound (failBurst q e s) :=
  raise_sound (run.of_frame (spoilBurst_frame q s) (spoilBurst_h q s)) e

theorem settleBurst_transferring (x : Transferring s) : Transferring (settleBurst q s) where
  toRunning := x.toRunning.of_frame (settleBurst_frame q s) (settleBurst_h q s)
  drained := by rw [settleBurst_h]; exact x.drained
  mounted := by rw [settleBurst_h]; exact x.mounted
  request := by rw [settleBurst_h]; exact x.request
  selected := by rw [settleBurst_seq]; exact x.selected
  errorFree := by rw [settleBurst_h]; exact x.errorFree
  going := by rw [settleBurst_seq]; exact x.going

/-- R299: a burst that is done leads to the next boundary. -/
theorem burstDone_sound (x : Transferring s) : Sound (.next (burstDone q s)) := by
  have settled := settleBurst_transferring (q := q) x
  refine .next (Placed.entered (Transferring.placed ?_ rfl) rfl trivial)
  exact { settled.toRunning.of_standing rfl with
    drained := settled.drained, mounted := settled.mounted, request := rfl, selected := settled.selected
    errorFree := settled.errorFree, going := settled.going }

/-- A transfer has its request. -/
theorem Transferring.withRequest (x : Transferring s) {k : TransferRequest → State → Result}
    (sound : ∀ q, Sound (k q s)) : Sound (withRequest k s) := by
  obtain ⟨q, request⟩ := Option.isSome_iff_exists.1 x.request
  rw [Machine.withRequest, request]
  exact sound q

theorem startSingle_sound (x : Transferring s) (dir : Direction) : Sound (.next (startSingle dir s)) := by
  cases dir
  · exact x.stages .cmd17 (by simp [cmdRows, singleIndex]) rfl rfl rfl
  · exact x.stages .cmd24 (by simp [cmdRows, singleIndex]) rfl rfl rfl

theorem startMulti_sound (x : Transferring s) (dir : Direction) : Sound (.next (startMulti dir s)) := by
  have logged := x.of_standing (t := logCall (.autoStop (autoStopUsed s.seq.burst.last s.h.mediaKind))
    (writeReg .blkCnt (BitVec.ofNat 64 s.seq.burst.n) s)) rfl
  cases dir
  · exact logged.stages .cmd18 (by simp [cmdRows, multiIndex]) rfl rfl rfl
  · exact logged.stages .cmd25 (by simp [cmdRows, multiIndex]) rfl rfl rfl

/-- R321: the stop that unwinds a transfer is the one recorded error outside recovery. -/
theorem compulsoryStop_sound (x : Transferring s) : Sound (.next (compulsoryStop s)) := by
  refine .next (Placed.stage (i := .cmd12 0#32) ?_ rfl trivial (by simp [cmdRows]) rfl nofun)
  exact { x.toRunning.of_standing rfl with
    drained := x.drained
    mounting := nofun
    transferring := fun _ => ⟨x.mounted, x.request, x.selected⟩
    recorded := fun _ => by simp [x.errorFree]
    aborts := fun _ => .inl rfl }

theorem burstBoundary_sound (x : Transferring s) : Sound (burstBoundary s) := by
  refine x.withRequest fun q => ?_
  dsimp only
  split
  · exact .next ((x.placed rfl).entered rfl trivial)
  · split
    · exact compulsoryStop_sound x
    · split
      · exact startSingle_sound (x.of_standing (by rfl)) _
      · exact startMulti_sound (x.of_standing (by rfl)) _

/-- A command of the transfer, with the request and what its result leads to. -/
theorem withRequest_result_sound {k : TransferRequest → State → Result} (run : Running s) (request : s.h.req.isSome = true)
    (failed : ∀ q e, r = .failed e → k q s = failBurst q e s) (ok : ∀ q, r = .ok → Sound (k q s)) :
    Sound (withRequest k s) := by
  obtain ⟨q, listed⟩ := Option.isSome_iff_exists.1 request
  rw [withRequest, listed]
  dsimp only
  cases r with
  | ok => exact ok q rfl
  | failed e =>
    rw [failed q e rfl]
    exact failBurst_sound run e

theorem afterSingle_sound (run : Running s) (request : s.h.req.isSome = true) (ok : r = .ok → Transferring s) :
    Sound (afterSingle r s) := by
  refine withRequest_result_sound (r := r) run request (by rintro q e rfl; rfl) ?_
  rintro q rfl
  exact (ok rfl).stagesRca .cmd13 (by simp [cmdRows]) (fun _ => rfl) rfl rfl

theorem afterMulti_sound (run : Running s) (request : s.h.req.isSome = true) (ok : r = .ok → Transferring s) :
    Sound (afterMulti r s) := by
  refine withRequest_result_sound (r := r) run request (by rintro q e rfl; rfl) ?_
  rintro q rfl
  dsimp only
  split
  · exact (ok rfl).stagesRca .cmd13 (by simp [cmdRows]) (fun _ => rfl) rfl rfl
  · exact (ok rfl).stages .cmd12 (by simp [cmdRows]) rfl rfl rfl

theorem afterStop_sound (run : Running s) (aborts : s.seq.aborting = true → s.h.stickyError.isSome = true)
    (going : s.seq.aborting = false → Transferring s) : Sound (afterStop r s) := by
  unfold afterStop
  split
  case isTrue aborting => exact recover_sound run (aborts aborting)
  case isFalse other =>
    have x := going (Bool.eq_false_iff.2 other)
    refine withRequest_result_sound (r := r) run x.request (by rintro q e rfl; rfl) ?_
    rintro q rfl
    dsimp only
    split
    · exact failBurst_sound run _
    · exact x.stagesRca .cmd13 (by simp [cmdRows]) (fun _ => rfl) rfl rfl

theorem afterVerified_sound (x : Transferring s) : Sound (afterVerified q s) := by
  unfold afterVerified
  split
  · split
    · exact startSingle_sound (x.of_standing (by rfl)) _
    · exact burstDone_sound x
  · split
    · exact x.stagesRca .cmd55 (by simp [cmdRows]) (fun _ => rfl) rfl rfl
    · exact burstDone_sound x

theorem afterVerify_sound (x : Transferring s) : Sound (afterVerify r s) := by
  refine withRequest_result_sound (r := r) x.toRunning x.request (by rintro q e rfl; rfl) ?_
  rintro q rfl
  dsimp only
  split
  · exact failBurst_sound x.toRunning _
  · split
    · exact afterVerified_sound x
    · exact failBurst_sound x.toRunning _

theorem afterWrCount_sound (x : Transferring s) : Sound (afterWrCount r s) := by
  refine withRequest_result_sound (r := r) x.toRunning x.request (by rintro q e rfl; rfl) ?_
  rintro q rfl
  dsimp only
  split
  case isTrue announced =>
    exact .next ((x.placed rfl).stageAcmd (i := .acmd22 0#32) announced rfl trivial (by simp [acmdRows]) rfl nofun)
  case isFalse =>
    split
    · exact failBurst_sound x.toRunning _
    · exact burstDone_sound x

theorem transferDone_sound (x : Transferring s) : Sound (.next (transferDone s)) :=
  .next (x.toRunning.finished x.drained _)

end

end Sys2Proof.Proofs
end

section
/-! The engine's own steps are sound: the control step of every phase, and every wire command that a phase spells (R222,
R299, R404, R134). -/

namespace Sys2Proof.Proofs

open Sys2Proof Sys2Proof.Machine Sys2Proof.Claims Sys2Proof.Laws

/-! ### Control steps -/

section
variable {s : State} {r : CmdResult}

theorem Running.of_inv (inv : Inv s) (index : s.cfg.index.wf = true) (active : s.h.opActive = true) : Running s :=
  ⟨index, inv.maskEmpty, inv.nothingInFlight, inv.bufferWf, inv.cardWf, active, inv.clockRuns active,
    inv.addressed (.inl (inv.busyIff.1 active)), inv.dmaQuiet.1, inv.dmaOwned⟩

/-- Outside the data phases the DMA engine is at rest (R55, R448). -/
theorem drained_of_inv (inv : Inv s) (noData : s.h.phase ≠ .xSingle ∧ s.h.phase ≠ .xMulti) : s.h.dmaState ≠ .residual :=
  fun residual => (inv.dmaQuiet.2 residual).1.elim noData.1 noData.2

theorem going_of_inv (inv : Inv s) (active : s.h.opActive = true)
    (phase : s.h.phase ≠ .xStop ∧ s.h.phase ≠ .recovery) : s.seq.aborting = false :=
  Bool.eq_false_iff.2 fun aborting => (inv.abortingStops aborting active).elim phase.1 phase.2

theorem Mounting.of_inv (inv : Inv s) (index : s.cfg.index.wf = true) (active : s.h.opActive = true)
    (phase : s.h.phase.isMount = true) : Mounting s := by
  have mount : ∀ p, p.isMount = false → s.h.phase ≠ p := fun p other same => by rw [same, other] at phase; cases phase
  have going := going_of_inv inv active ⟨mount .xStop rfl, mount .recovery rfl⟩
  obtain ⟨unmounted, noRequest⟩ := inv.mountUnmounted phase
  have recorded := inv.noErrorYet active (mount .recovery rfl)
  rw [going] at recorded
  exact ⟨.of_inv inv index active, drained_of_inv inv ⟨mount .xSingle rfl, mount .xMulti rfl⟩, unmounted, noRequest,
    recorded, going⟩

theorem Transferring.of_inv (inv : Inv s) (index : s.cfg.index.wf = true) (active : s.h.opActive = true)
    (phase : s.h.phase.isTransfer = true) (going : s.seq.aborting = false) (drained : s.h.dmaState ≠ .residual) :
    Transferring s := by
  have ordinary : s.h.phase ≠ .recovery := fun same => by rw [same] at phase; cases phase
  obtain ⟨mounted, request, selected⟩ := inv.transferMounted phase
  have recorded := inv.noErrorYet active ordinary
  rw [going] at recorded
  exact ⟨.of_inv inv index active, drained, mounted, request, selected, recorded, going⟩

/-- A command that did not fail has left no residual state (R55). -/
theorem drained_of_done (inv : Inv s) (accepted : ∀ e, s.seq.done ≠ some (.failed e)) : s.h.dmaState ≠ .residual :=
  fun residual => (inv.dmaQuiet.2 residual).2.elim accepted

/-- The control step after a command's result (R222, R299, R404). -/
theorem advanceAfter_sound (inv : Inv s) (index : s.cfg.index.wf = true) (active : s.h.opActive = true)
    (done : s.seq.done = some r) : Sound (advanceAfter r s) := by
  have run := Running.of_inv inv index active
  have m := Mounting.of_inv inv index active
  have going := going_of_inv inv active
  have x := Transferring.of_inv inv index active
  have accepted : r = .ok → s.h.dmaState ≠ .residual := fun ok => drained_of_done inv (by rw [done, ok]; nofun)
  have drained := drained_of_inv inv
  have request := inv.transferMounted
  have images := inv.images
  have answered : r = .ok → s.seq.done = some .ok := fun ok => by rw [done, ok]
  have command := inv.commandOrResult active
  have stays := inv.phaseStays
  have busy := inv.busyIff.1 active
  unfold imagesReady at images
  unfold advanceAfter
  cases phase : s.h.phase <;> rw [phase] at images <;> simp only
  case mReset => exact afterReset_sound (m (by rw [phase]; rfl))
  case mIfCond => exact afterIfCond_sound (m (by rw [phase]; rfl)) fun ok => images (answered ok)
  case mOcrSd => exact afterOcrSd_sound (m (by rw [phase]; rfl)) fun ok => images (answered ok)
  case mOcrMmc => exact afterOcrMmc_sound (m (by rw [phase]; rfl)) fun ok => images (answered ok)
  case mCid => exact afterCid_sound (m (by rw [phase]; rfl))
  case mRca => exact afterRca_sound (m (by rw [phase]; rfl))
  case mCsd => exact afterCsd_sound (m (by rw [phase]; rfl)) fun ok => images (answered ok)
  case mDsr => exact afterDsr_sound (m (by rw [phase]; rfl)) images
  case mScr => exact afterScr_sound (m (by rw [phase]; rfl)) images.1 fun ok => images.2 (answered ok)
  case mSelect => exact afterSelect_sound (m (by rw [phase]; rfl)) images.1 images.2
  case mBlockLen => exact afterBlockLen_sound (m (by rw [phase]; rfl)) images.1 images.2
  case mBusWidth => exact afterBusWidth_sound (m (by rw [phase]; rfl)) images.1 images.2
  case mClrStatus => exact afterClrStatus_sound (m (by rw [phase]; rfl)) images.1 images.2
  case mSdStatus => exact afterSdStatus_sound (m (by rw [phase]; rfl)) images.1 fun ok => images.2 (answered ok)
  case xSingle =>
    exact afterSingle_sound run (request (by rw [phase]; rfl)).2.1 fun ok =>
      x (by rw [phase]; rfl) (going (by rw [phase]; exact ⟨nofun, nofun⟩)) (accepted ok)
  case xMulti =>
    exact afterMulti_sound run (request (by rw [phase]; rfl)).2.1 fun ok =>
      x (by rw [phase]; rfl) (going (by rw [phase]; exact ⟨nofun, nofun⟩)) (accepted ok)
  case xStop =>
    refine afterStop_sound run (fun aborting => ?_) fun going =>
      x (by rw [phase]; rfl) going (drained (by rw [phase]; exact ⟨nofun, nofun⟩))
    rw [inv.noErrorYet active (by rw [phase]; nofun), aborting]
    rfl
  case xVerify =>
    exact afterVerify_sound (x (by rw [phase]; rfl) (going (by rw [phase]; exact ⟨nofun, nofun⟩))
      (drained (by rw [phase]; exact ⟨nofun, nofun⟩)))
  case xWrCount =>
    exact afterWrCount_sound (x (by rw [phase]; rfl) (going (by rw [phase]; exact ⟨nofun, nofun⟩))
      (drained (by rw [phase]; exact ⟨nofun, nofun⟩)))
  case recovery =>
    obtain ⟨sticky, saved⟩ := inv.recoverySaved phase
    exact afterRecoveryCommand_sound ⟨run, drained (by rw [phase]; exact ⟨nofun, nofun⟩), nofun, nofun,
      fun other => absurd rfl other, fun _ => .inr rfl⟩ sticky saved r
  case idle => exact absurd phase busy
  case xCheck => exact absurd phase stays.1
  case hostOp => exact absurd phase stays.2
  case mGeometry | mDone | xBurst | xDone =>
    rw [phase] at command
    simp [Phase.isAlone, done] at command

/-- The control step of a phase without a command. -/
theorem advanceAlone_sound (inv : Inv s) (index : s.cfg.index.wf = true) (active : s.h.opActive = true)
    (alone : s.h.phase.isAlone = true) : Sound (advanceAlone s) := by
  have command := inv.commandOrResult active
  rw [if_pos alone] at command
  have m := Mounting.of_inv inv index active
  have going := going_of_inv inv active
  have x : s.h.phase.isTransfer = true → s.seq.aborting = false → Transferring s := fun phase going =>
    .of_inv inv index active phase going (drained_of_done inv fun e => by rw [command.2]; nofun)
  have images := inv.images
  unfold imagesReady at images
  unfold advanceAlone
  cases phase : s.h.phase <;> rw [phase] at images alone <;> simp only <;> cases alone
  case mGeometry => exact geometry_sound (m (by rw [phase]; rfl)) images.1 images.2
  case mDone => exact mountDone_sound (m (by rw [phase]; rfl))
  case xBurst => exact burstBoundary_sound (x (by rw [phase]; rfl) (going (by rw [phase]; exact ⟨nofun, nofun⟩)))
  case xDone => exact transferDone_sound (x (by rw [phase]; rfl) (going (by rw [phase]; exact ⟨nofun, nofun⟩)))

/-- The control step of a running operation with no command staged (R31). -/
theorem advance_sound (inv : Inv s) (index : s.cfg.index.wf = true) (active : s.h.opActive = true)
    (unstaged : s.seq.staged = none) : Sound (advance s) := by
  have command := inv.commandOrResult active
  unfold advance
  cases done : s.seq.done with
  | some r => exact advanceAfter_sound inv index active done
  | none =>
    by_cases alone : s.h.phase.isAlone = true
    · exact advanceAlone_sound inv index active alone
    · simp [alone, unstaged, done] at command

end

/-! ### Wire commands -/

/-- After a command of its phase the images of the phase are ready: those of before, and the command's own where it was
accepted (R39). -/
theorem imagesReady_of_answer {s : State} {i : Instr} {ok : Bool} (fits : phaseCommand s.h.phase i = true)
    (held : imagesHeld s.h.phase s.h) (app : s.seq.app = (announces i && ok))
    (done : s.seq.done = some .ok → ok = true ∧ imageWritten i s = true) : imagesReady s := by
  generalize phase : s.h.phase = p at fits held
  unfold imagesReady
  rw [phase]
  unfold phaseCommand at fits
  split at fits <;> simp_all [imagesHeld, imageWritten, announces]

/-- What a data phase leaves of the DMA engine's state: nothing new, or on the DMA path a drained engine, or residual state
with an error (R308). -/
theorem dataPhase_dmaState (dir : Direction) (n sector buf : Nat) (s : State) :
    (dataPhase dir sector buf n s).2.h.dmaState = s.h.dmaState ∨
    (s.h.xferMode = .dma ∧ ((dataPhase dir sector buf n s).2.h.dmaState = .done ∨
      ((dataPhase dir sector buf n s).2.h.dmaState = .residual ∧ (dataPhase dir sector buf n s).1.isSome = true))) := by
  unfold dataPhase
  cases mode : s.h.xferMode with
  | sw =>
    obtain ⟨k, -, moved, -⟩ := softwareSectors_moved dir n sector buf s
    refine .inl ?_
    dsimp only
    rcases andThen_cases (softwareSectors dir sector buf n s) fun t => endSeq (forgetCopies t) with
      ⟨e, -, ran⟩ | ⟨-, ran⟩ <;> rw [ran]
    · dsimp only
      rw [moved.h]
    · rw [endSeq, dataWait_h, forgetCopies_h, moved.h]
  | dma =>
    refine .inr ⟨rfl, ?_⟩
    dsimp only [dmaPhase]
    split
    · exact .inr ⟨rfl, rfl⟩
    · unfold drainDma
      dsimp only
      split
      · exact .inl rfl
      · exact .inr ⟨rfl, rfl⟩

section
variable {s w : State} {i : Instr} {result : Option ErrorKind}

/-- A command of its phase that answers leaves a sound state: only the Port's bookkeeping, the images, the DMA engine and
the memories have changed, and its result waits. -/
theorem answered_inv (inv : Inv s) (staged : s.seq.staged.isSome = true) (fits : phaseCommand s.h.phase i = true)
    (frame : CommandFrame s w) (written : result = none → imageWritten i w = true) (disarmed : w.h.dmaState ≠ .armed)
    (residual : w.h.dmaState = .residual → (s.h.phase = .xSingle ∨ s.h.phase = .xMulti) ∧ result.isSome = true)
    (owned : w.h.dmaState ≠ .idle ∨ s.h.xferMode = .dma → s.cfg.dmaCapable = true) :
    Inv (endCommand (announces i) (result, w)) := by
  have notAlone : s.h.phase.isAlone = false := by
    generalize s.h.phase = p at fits
    unfold phaseCommand at fits
    split at fits
    case h_31 => cases fits
    all_goals rfl
  have h := frame.h
  have phase : w.h.phase = s.h.phase := by rw [h]
  have active : w.h.opActive = s.h.opActive := by rw [h]
  have mounted : w.h.mountState = s.h.mountState := by rw [h]
  have request : w.h.req = s.h.req := by rw [h]
  have sticky : w.h.stickyError = s.h.stickyError := by rw [h]
  have mode : w.h.xferMode = s.h.xferMode := by rw [h]
  have media : w.h.mediaKind = s.h.mediaKind := by rw [h]
  have clock : w.h.clockOn = s.h.clockOn := by rw [h]
  have seq := frame.seq
  have aborting : w.seq.aborting = s.seq.aborting := by rw [seq]
  have selected : w.seq.selected = s.seq.selected := by rw [seq]
  have saved : w.seq.saved = s.seq.saved := by rw [seq]
  have running : s.h.opActive = true := by
    by_contra idle
    obtain ⟨-, unstaged, -⟩ := inv.idleClean (Bool.eq_false_iff.2 idle)
    rw [unstaged] at staged
    cases staged
  constructor <;> simp only [endCommand]
  case maskEmpty => exact frame.mask inv.maskEmpty
  case nothingInFlight => exact frame.inFlight inv.nothingInFlight
  case bufferWf => exact frame.memWf inv.bufferWf
  case cardWf => exact frame.cardWf inv.cardWf
  case busyIff => rw [active, phase]; exact inv.busyIff
  case phaseStays => rw [phase]; exact inv.phaseStays
  case idleClean => rw [active, running]; nofun
  case clockRuns => rw [active, clock]; exact inv.clockRuns
  case commandOrResult => simp [phase, notAlone]
  case stagedFits => nofun
  case images =>
    refine imagesReady_of_answer (i := i) (ok := result.isNone) (by rw [← phase] at fits; exact fits) ?_ rfl fun done => ?_
    · have held := imagesHeld_of_ready inv.images
      show imagesHeld w.h.phase w.h
      rw [phase]
      revert held
      unfold imagesHeld
      split
      · exact frame.csd
      · exact frame.csd
      · exact frame.csd
      all_goals first
        | exact fun _ => trivial
        | exact fun held => ⟨frame.csd held.1, fun other => frame.scr (held.2 (by rw [← media]; exact other))⟩
    · cases result with
      | none => exact ⟨rfl, written rfl⟩
      | some e => cases done
  case addressed => rw [phase, mounted]; exact fun cause => frame.rca (inv.addressed cause)
  case mountUnmounted => rw [phase, mounted, request]; exact inv.mountUnmounted
  case transferMounted => rw [phase, mounted, request, selected]; exact inv.transferMounted
  case dmaQuiet =>
    refine ⟨disarmed, fun left => ?_⟩
    obtain ⟨data, failed⟩ := residual left
    obtain ⟨e, rfl⟩ := Option.isSome_iff_exists.1 failed
    exact ⟨by rw [phase]; exact data, e, rfl⟩
  case dmaOwned => rw [mode, frame.cfg]; exact owned
  case recoverySaved => rw [phase, sticky, saved]; exact inv.recoverySaved
  case noErrorYet =>
    show w.h.opActive = true → w.h.phase ≠ .recovery → w.h.stickyError = if w.seq.aborting then some .stopped else none
    rw [active, phase, sticky, aborting]
    exact inv.noErrorYet
  case abortingStops => rw [aborting, active, phase]; exact inv.abortingStops

/-- While a command is staged none has a result. -/
theorem done_of_staged (inv : Inv s) (staged : s.seq.staged.isSome = true) (e : ErrorKind) : s.seq.done ≠ some (.failed e) := by
  obtain ⟨f, frame⟩ := Option.isSome_iff_exists.1 staged
  by_cases active : s.h.opActive = true
  · have command := inv.commandOrResult active
    split at command <;> simp_all
  · obtain ⟨-, unstaged, -⟩ := inv.idleClean (Bool.eq_false_iff.2 active)
    rw [unstaged] at frame
    cases frame

/-- Every wire command that answers is a state of `CommandFrame`, closed by `endCommand` (R185–R207). -/
theorem exec_wire_frame {t : State} (wire : isWire i = true) (next : exec i s = .next t) :
    ∃ a r, t = endCommand a r ∧ CommandFrame s r.2 := by
  cases data : isData i s with
  | none =>
    obtain ⟨cmd, arg, kind, tc, issues⟩ := wireIssue_of_isWire wire
    rw [exec_of_issue issues data] at next
    obtain ⟨-, rfl⟩ := command_next next
    exact ⟨_, _, rfl, andThen_frame (issue_frame cmd arg kind tc s).command (followUp_frame i)⟩
  | some d =>
    obtain ⟨cmd, -, ran⟩ := exec_of_isData data
    obtain ⟨-, -, rfl⟩ := dataCommand_next (ran ▸ next)
    exact ⟨_, _, rfl, andThen_frame ((forgetCopies_frame s).trans (issueR1_frame ..).command) (dataPhase_frame _ _ _ _)⟩

/-- A staged data command is one of X_Single or X_Multi. -/
theorem phase_of_isData {p : Phase} {dir : Direction} {n : Nat} {arg : Word} (fits : phaseCommand p i = true)
    (data : isData i s = some (dir, n, arg)) : p = .xSingle ∨ p = .xMulti := by
  unfold phaseCommand at fits
  split at fits
  case h_21 | h_22 => exact .inl rfl
  case h_23 | h_24 => exact .inr rfl
  case h_31 => cases fits
  all_goals cases data

/-- A data command announces nothing and writes no image. -/
theorem announces_imageWritten_of_isData {s : State} {d : Direction × Nat × Word} (data : isData i s = some d) :
    announces i = false ∧ ∀ t, imageWritten i t = true := by
  cases i with
  | cmd17 | cmd18 | cmd24 | cmd25 => exact ⟨rfl, fun _ => rfl⟩
  | _ => cases data

/-- Every command that a phase spells answers, and keeps the state sound (R134, R163, R308). -/
theorem exec_wire_sound (inv : Inv s) (staged : s.seq.staged.isSome = true) (wire : isWire i = true)
    (fits : phaseCommand s.h.phase i = true) : Sound (exec i s) := by
  have drained := drained_of_done inv (done_of_staged inv staged)
  have disarmed := inv.dmaQuiet.1
  cases data : isData i s with
  | none =>
    obtain ⟨cmd, arg, kind, tc, issues⟩ := wireIssue_of_isWire wire
    have dma := (andThen_registerFrame (issue_registerFrame i cmd arg kind tc s) (followUp_registerFrame i)).h
    have frame := andThen_frame (issue_frame cmd arg kind tc s).command (followUp_frame i)
    have written : (andThen (issue cmd arg kind tc s) (followUp i)).1 = none →
        imageWritten i (andThen (issue cmd arg kind tc s) (followUp i)).2 = true := fun ok => by
      obtain ⟨-, ran, ok⟩ := andThen_ok ok
      rw [ran]
      exact followUp_written ok
    rw [exec_of_issue issues data, command_idle inv.nothingInFlight]
    generalize andThen (issue cmd arg kind tc s) (followUp i) = r at dma frame written
    have same : r.2.h.dmaState = s.h.dmaState := by rw [dma]
    exact .next (answered_inv inv staged fits frame written (by rw [same]; exact disarmed)
      (fun left => absurd (same.symm.trans left) drained) (by rw [same]; exact inv.dmaOwned))
  | some d =>
    obtain ⟨dir, n, arg⟩ := d
    obtain ⟨cmd, -, ran⟩ := exec_of_isData data
    have free : dmaBlocked s = false := by simp [dmaBlocked, disarmed, drained]
    rw [ran, dataCommand_of_issue rfl inv.nothingInFlight (.inl free)]
    have first := (forgetCopies_frame s).trans (issueR1_frame cmd arg .r1 .cmd 0#32 (forgetCopies s)).command
    have issued := (issueR1_frame cmd arg .r1 .cmd 0#32 (forgetCopies s)).h
    generalize issueR1 cmd arg .r1 .cmd 0#32 (forgetCopies s) = u at first issued
    have frame := andThen_frame first (dataPhase_frame dir
      (addressedSector s.h.highCapacity (s.seq.burst.first + s.seq.burst.k) arg) (s.seq.burst.buf + 512 * s.seq.burst.k) n)
    obtain ⟨silent, plain⟩ := announces_imageWritten_of_isData data
    have dmaU : u.2.h.dmaState = s.h.dmaState := by rw [issued]; rfl
    have modeU : u.2.h.xferMode = s.h.xferMode := by rw [issued]; rfl
    have phase := phase_of_isData fits data
    rw [← silent]
    rcases andThen_cases u (dataPhase dir (addressedSector s.h.highCapacity (s.seq.burst.first + s.seq.burst.k) arg)
      (s.seq.burst.buf + 512 * s.seq.burst.k) n) with ⟨e, -, ends⟩ | ⟨-, ends⟩
    · rw [ends] at frame ⊢
      exact .next (answered_inv inv staged fits frame (fun _ => plain _) (by rw [dmaU]; exact disarmed)
        (fun left => absurd (dmaU.symm.trans left) drained) (by rw [dmaU]; exact inv.dmaOwned))
    · rw [ends] at frame ⊢
      have outcome := dataPhase_dmaState dir n (addressedSector s.h.highCapacity (s.seq.burst.first + s.seq.burst.k) arg)
        (s.seq.burst.buf + 512 * s.seq.burst.k) u.2
      generalize dataPhase dir (addressedSector s.h.highCapacity (s.seq.burst.first + s.seq.burst.k) arg)
        (s.seq.burst.buf + 512 * s.seq.burst.k) n u.2 = w at frame outcome
      rw [dmaU, modeU] at outcome
      refine .next (answered_inv inv staged fits frame (fun _ => plain _) ?_ ?_ ?_)
      · rcases outcome with same | ⟨-, done | ⟨left, -⟩⟩ <;> simp [*]
      · rcases outcome with same | ⟨-, done | ⟨left, failed⟩⟩
        · exact fun left => absurd (same.symm.trans left) drained
        · rw [done]; nofun
        · exact fun _ => ⟨phase, failed⟩
      · rcases outcome with same | ⟨mode, -⟩
        · rw [same]; exact inv.dmaOwned
        · exact fun _ => inv.dmaOwned (.inr mode)

end

end Sys2Proof.Proofs
end

section
/-! What the host and the outside do to a sound state (R120, R360, R390–R393, R430–R439), and with it every step of the
machine: the invariant is kept (O59), the engine never stops (O60), the first error is the result (O51). -/

namespace Sys2Proof.Proofs

open Sys2Proof Sys2Proof.Machine Sys2Proof.Claims Sys2Proof.Laws

/-! ### Requests -/

/-- The answer to what the host or the outside does: no fault, and a sound state if any. -/
structure Safe (r : Result) : Prop where
  keeps : ∀ t, r = .next t → Inv t
  live : ∀ f, r ≠ .fault f

theorem Sound.safe {r : Result} (sound : Sound r) : Safe r := by
  obtain ⟨t, rfl, inv⟩ := sound
  exact ⟨by rintro u ⟨⟩; exact inv, nofun⟩

theorem Safe.next {t : State} (inv : Inv t) : Safe (.next t) := (Sound.next inv).safe

theorem Safe.refused (why : Refusal) : Safe (.refused why) :=
  ⟨fun _ next => (by cases next), fun _ fault => (by cases fault)⟩

section
variable {s t : State}

theorem Resting.of_standing (r : Resting s) (same : standing t = standing s) (phase : t.h.phase = s.h.phase)
    (staged : t.seq.staged = s.seq.staged) (done : t.seq.done = s.seq.done) : Resting t := by
  simp only [standing, Prod.mk.injEq] at same
  obtain ⟨⟨cfg, mem, card, mask, flight, active, clock, rca, dma, mode⟩, mounted, req, -⟩ := same
  exact ⟨mask.trans r.maskEmpty, flight.trans r.nothingInFlight, by rw [mem]; exact r.bufferWf, by rw [card]; exact r.cardWf,
    active.trans r.idle, phase.trans r.phase, clock.trans r.clock, staged.trans r.unstaged, done.trans r.answered,
    req.trans r.noRequest, by rw [mounted, rca]; exact r.addressed, by rw [dma]; exact r.disarmed,
    by rw [dma]; exact r.drained, by rw [dma, mode, cfg]; exact r.owned⟩

/-- What lands inside a request is not part of `standing` (R391, R355). -/
theorem MidwayFrame_standing (frame : MidwayFrame s t) : standing t = standing s := by
  rw [standing, standing, frame.cfg, frame.mem, frame.card, frame.h, frame.seq]

theorem Resting.landing (r : Resting s) : Resting (landing s) := by
  have frame := landing_frame s
  exact r.of_standing (MidwayFrame_standing frame) (by rw [frame.h]) (by rw [frame.seq]) (by rw [frame.seq])

theorem samplePresence_standing (s : State) : standing (samplePresence s) = standing s := by
  rw [standing, standing, samplePresence_cfg, samplePresence_mem, samplePresence_card, samplePresence_h,
    samplePresence_seq]

/-- A short operation that touched neither memory nor card returns to rest (R350–R355). -/
theorem Resting.endHostOp (r : Resting s) : Inv (endHostOp s) :=
  (r.of_standing (t := Machine.endHostOp s)
    (by rw [standing, standing]; simp only [Machine.endHostOp]; rw [r.idle]) r.phase.symm rfl rfl).inv

/-- UNMOUNT, and the handle's reset at MOUNT's entry, leave a channel at rest with no card (R220, R350). -/
theorem resting_resetCardFields (r : Resting s) : Resting (haltClock (resetCardFields s)) :=
  ⟨r.maskEmpty, r.nothingInFlight, r.bufferWf, r.cardWf, r.idle, r.phase, rfl, r.unstaged, r.answered, r.noRequest,
    fun _ => rfl, r.disarmed, r.drained, r.owned⟩

/-- What is done between the start of an operation and its immediate end leaves a channel at rest (R293, R296, R277). -/
theorem resting_finish (own : Word) (mask : s.h.irqMask = []) (flight : s.h.inFlight = false) (mem : s.mem.wf = true)
    (card : s.card.wf = true) (clock : s.h.clockOn = false) (addressed : s.h.mountState ≠ .unmounted → s.h.rca.written = true)
    (disarmed : s.h.dmaState ≠ .armed) (drained : s.h.dmaState ≠ .residual)
    (owned : s.h.dmaState ≠ .idle ∨ s.h.xferMode = .dma → s.cfg.dmaCapable = true) : Inv (finish own s) :=
  Resting.inv ⟨mask, flight, mem, card, rfl, rfl, clock, rfl, rfl, rfl, addressed, disarmed, drained, owned⟩

theorem Resting.finish_beginOp (r : Resting s) (own : Word) (p : Phase) : Inv (finish own (beginOp p s)) :=
  resting_finish own r.maskEmpty r.nothingInFlight r.bufferWf r.cardWf r.clock r.addressed r.disarmed r.drained r.owned

theorem Resting.failOp_beginOp (r : Resting s) (e : ErrorKind) (p : Phase) : Inv (failOp e (beginOp p s)) :=
  resting_finish okResult r.maskEmpty r.nothingInFlight r.bufferWf r.cardWf r.clock r.addressed r.disarmed r.drained r.owned

/-- R220–R223, R277: a MOUNT without a card ends at once, any other spells its first CMD0. -/
theorem mountEntry_safe (r : Resting s) (index : s.cfg.index.wf = true) (hostV2 : Bool) (volt : BitVec 9) :
    Inv (mountEntry hostV2 volt s) := by
  have frame := landing_frame (samplePresence (resetCardFields (findCard (beginOp .mReset s))))
  have same := (MidwayFrame_standing frame).trans (samplePresence_standing _)
  unfold mountEntry
  dsimp only
  generalize landing (samplePresence (resetCardFields (findCard (beginOp .mReset s)))) = t at same
  simp only [standing, Prod.mk.injEq] at same
  obtain ⟨⟨cfg, mem, card, mask, flight, active, clock, rca, dma, mode⟩, mounted, req, sticky, -, aborting⟩ := same
  split
  · have m : Mounting (startClock .fIdent { t with seq.hostV2 := hostV2, seq.volt := volt }) := by
      refine ⟨⟨?_, ?_, ?_, ?_, ?_, ?_, ?_, ?_, ?_, ?_⟩, ?_, ?_, ?_, ?_, ?_⟩ <;>
        simp only [startClock_cfg, startClock_h, startClock_seq, startClock_mem, startClock_card]
      · rw [cfg]; exact index
      · exact mask.trans r.maskEmpty
      · exact flight.trans r.nothingInFlight
      · rw [mem]; exact r.bufferWf
      · rw [card]; exact r.cardWf
      · exact active
      · rw [rca]; rfl
      · rw [dma]; exact r.disarmed
      · rw [dma, mode, cfg]; exact r.owned
      · rw [dma]; exact r.drained
      · exact mounted
      · exact req.trans r.noRequest
      · exact sticky
      · exact aborting
    obtain ⟨u, next, inv⟩ := startReset_sound m .toIfCond
    cases next
    exact inv
  · exact resting_finish okResult (mask.trans r.maskEmpty) (flight.trans r.nothingInFlight) (by
      show t.mem.wf = true
      rw [mem]; exact r.bufferWf) (by
      show t.card.wf = true
      rw [card]; exact r.cardWf) (clock.trans r.clock) (by
      intro _
      show t.h.rca.written = true
      rw [rca]; rfl) (by
      show t.h.dmaState ≠ _
      rw [dma]; exact r.disarmed) (by
      show t.h.dmaState ≠ _
      rw [dma]; exact r.drained) (by
      show t.h.dmaState ≠ _ ∨ t.h.xferMode = _ → t.cfg.dmaCapable = _
      rw [dma, mode, cfg]; exact r.owned)

/-- R297, R298: a transfer that starts takes the DMA path only on a host that has one. -/
theorem startTransfer_inv (r : Resting s) (index : s.cfg.index.wf = true) (mounted : s.h.mountState = .mountedUnlocked)
    (dir : Direction) (start count buf len : Nat) : Inv (startTransfer dir start count buf len s) := by
  have x : Transferring (startTransfer dir start count buf len s) := by
    refine ⟨⟨?_, ?_, ?_, ?_, ?_, ?_, ?_, ?_, ?_, ?_⟩, ?_, ?_, ?_, ?_, ?_, ?_⟩ <;>
      simp [startTransfer, enterPhase, r.maskEmpty, r.nothingInFlight, r.bufferWf, r.cardWf, index, mounted,
        r.addressed (by rw [mounted]; nofun), r.disarmed, r.drained, Sequencer.reset]
    rintro (busy | mode)
    · exact r.owned (.inl busy)
    · unfold chooseMode at mode
      split at mode
      · exact ‹_ ∧ _›.1
      · cases mode
  have phase : (startTransfer dir start count buf len s).h.phase = .xBurst := by simp [startTransfer, enterPhase]
  have staged : (startTransfer dir start count buf len s).seq.staged = none := by simp [startTransfer, enterPhase]
  have done : (startTransfer dir start count buf len s).seq.done = none := by simp [startTransfer, enterPhase]
  refine Placed.inv (by rw [phase]; exact x.placed rfl) (by rw [phase]; exact ⟨nofun, nofun, nofun⟩) ?_ ?_ ?_ ?_
  · rw [phase]; exact ⟨staged, done⟩
  · rw [staged]; nofun
  · unfold imagesReady; rw [phase]; trivial
  · rw [phase]; nofun

theorem mounted_of_accessError (ok : accessError s = none) : s.h.mountState = .mountedUnlocked := by
  unfold accessError at ok
  cases mounted : s.h.mountState <;> simp [mounted] at ok ⊢

/-- R293–R298. -/
theorem transfer_safe (r : Resting s) (index : s.cfg.index.wf = true) (dir : Direction) (start count buf len : Nat) :
    Safe (transfer dir start count buf len s) := by
  unfold transfer
  split
  · exact .refused _
  · cases access : accessError s with
    | some e => exact .next (r.failOp_beginOp e _)
    | none =>
      have mounted : (landing s).h.mountState = .mountedUnlocked := by
        rw [(landing_frame s).h]
        exact mounted_of_accessError access
      dsimp only
      split
      · exact .next (r.landing.failOp_beginOp _ _)
      · unfold admitTransfer
        split
        · exact .next (r.landing.finish_beginOp _ _)
        · split
          · exact .refused _
          · exact .next (startTransfer_inv r.landing (by rw [(landing_frame s).cfg]; exact index) mounted ..)

/-- A request that is not turned away finds a channel at rest (R360, R432). -/
theorem accept_safe {k : State → Result} (inv : Inv s) (safe : ∀ u, Resting u → u.cfg = s.cfg → Safe (k u)) :
    Safe (accept k s) := by
  unfold accept
  split
  · exact .refused _
  · split
    · exact .refused _
    · case _ idle => exact safe _ (Resting.of_inv inv (Bool.eq_false_iff.2 idle)).landing (landing_frame s).cfg

theorem isPresentEffect_inv (r : Resting s) : Inv (isPresentEffect s) := by
  have sampled : Resting (samplePresence s) := r.of_standing (samplePresence_standing s)
    (by rw [samplePresence_h]) (by rw [samplePresence_seq]) (by rw [samplePresence_seq])
  exact Resting.endHostOp (sampled.landing.of_standing (by rfl) (by rfl) (by rfl) (by rfl))

/-! ### What the invariant does not speak of -/

/-- The outside's acts change the card's flags, the model's marks, the input slots, the request words, and bytes of the
buffer memory. -/
structure Outside (s t : State) : Prop where
  cfg : t.cfg = s.cfg
  h : t.h = { s.h with cardPresent := t.h.cardPresent, compulsoryStop := t.h.compulsoryStop }
  seq : t.seq = { s.seq with touched := t.seq.touched, doubtful := t.seq.doubtful }
  memWf : s.mem.wf = true → t.mem.wf = true
  card : t.card = s.card

theorem inv_of_outside (inv : Inv s) (outside : Outside s t) : Inv t := by
  obtain ⟨cfg, h, seq, mem, card⟩ := outside
  constructor
  case maskEmpty => rw [h]; exact inv.maskEmpty
  case nothingInFlight => rw [h]; exact inv.nothingInFlight
  case bufferWf => exact mem inv.bufferWf
  case cardWf => rw [card]; exact inv.cardWf
  case busyIff => rw [h]; exact inv.busyIff
  case phaseStays => rw [h]; exact inv.phaseStays
  case idleClean => rw [h, seq]; exact inv.idleClean
  case clockRuns => rw [h]; exact inv.clockRuns
  case commandOrResult => rw [h, seq]; exact inv.commandOrResult
  case stagedFits => rw [h, seq, cfg]; exact inv.stagedFits
  case images => unfold imagesReady; rw [h, seq]; exact inv.images
  case addressed => rw [h]; exact inv.addressed
  case mountUnmounted => rw [h]; exact inv.mountUnmounted
  case transferMounted => rw [h, seq]; exact inv.transferMounted
  case dmaQuiet => rw [h, seq]; exact inv.dmaQuiet
  case dmaOwned => rw [h, cfg]; exact inv.dmaOwned
  case recoverySaved => rw [h, seq]; exact inv.recoverySaved
  case noErrorYet => rw [h, seq]; exact inv.noErrorYet
  case abortingStops => rw [h, seq]; exact inv.abortingStops

theorem fetched_outside (s : State) : Outside s (fetched s) :=
  ⟨fetched_cfg s, by rw [fetched_h], by rw [fetched_seq], by rw [fetched_mem]; exact id, fetched_card s⟩

theorem fetched_inv (inv : Inv s) : Inv (fetched s) := inv_of_outside inv (fetched_outside s)

/-- Every request is safe (R120, R360, R441, R442). -/
theorem exec_request_safe (inv : Inv s) (index : s.cfg.index.wf = true) {i : Instr} (request : isWire i = false) :
    Safe (exec i s) := by
  have idle : ∀ {k : State → State}, (∀ u, Resting u → Inv (k u)) → Safe (accept (fun u => .next (k u)) s) :=
    fun rests => accept_safe inv fun u r _ => .next (rests u r)
  cases i with
  | mount v2 volt => exact accept_safe inv fun u r cfg => .next (mountEntry_safe r (by rw [cfg]; exact index) v2 volt)
  | unmount => exact idle fun u r => (resting_resetCardFields r).endHostOp
  | read start count buf len =>
    exact accept_safe inv fun u r cfg => transfer_safe r (by rw [cfg]; exact index) ..
  | write start count buf len =>
    exact accept_safe inv fun u r cfg => transfer_safe r (by rw [cfg]; exact index) ..
  | getGeometry | getMediaKind | getWp =>
    simp only [exec, execGetGeometry, execGetMediaKind, execGetWp]
    exact idle fun u r => Resting.endHostOp (r.of_standing (by rfl) (by rfl) (by rfl) (by rfl))
  | isPresent => exact idle fun u r => isPresentEffect_inv r
  | requestStop =>
    show Safe (execRequestStop s)
    unfold execRequestStop
    split
    · exact .refused _
    · split <;> exact .next (inv_of_outside inv ⟨rfl, rfl, rfl, id, rfl⟩)
  | lockUnlock | standby | active | reservedRequest => exact .refused _
  | _ => cases request

theorem isWire_decodeRequest (w : RequestWords) : isWire (decodeRequest w) = false := by
  unfold decodeRequest decodeOpcode
  repeat' split
  all_goals rfl

/-! ### Arrivals -/

theorem callback_outside (ev : EventClass) (channel : Nat) (s : State) : Outside s (callback ev channel s) := by
  have frame := callback_frame ev channel s
  exact ⟨frame.cfg, frame.h, by rw [frame.seq], by rw [frame.mem]; exact id, frame.card⟩

theorem touchBuffer_outside (q : TransferRequest) (s : State) : Outside s (touchBuffer q s) := by
  have frame := spoilBuffer_frame q.buf (512 * q.count) s
  refine ⟨frame.cfg, ?_, ?_, frame.memWf, (drawBytes_frame _ s).card⟩
  · simp only [touchBuffer, spoilBuffer_h]
  · simp only [touchBuffer, spoilBuffer_seq]

theorem hostStore_outside (addr : BitVec 64) (b : Byte) (s : State) : Outside s (hostStore addr b s) := by
  unfold hostStore
  dsimp only
  split
  · exact touchBuffer_outside _ s
  · exact ⟨rfl, rfl, rfl, writeBytes_wf _ _ _, rfl⟩

theorem hostLoad_outside (addr : BitVec 64) (s : State) : Outside s (hostLoad addr s) := by
  unfold hostLoad
  split
  · exact touchBuffer_outside _ s
  · exact ⟨rfl, rfl, rfl, id, rfl⟩

/-- Every arrival but driver init and finalize is an act of the outside alone (R390–R393, R436, R437, R443). -/
theorem arrive_outside {i : Input} (noInit : i ≠ .driverInit) (noFinalize : i ≠ .finalize) (s : State) :
    ∃ t, arrive i s = .next t ∧ Outside s t := by
  cases i with
  | request => exact ⟨s, rfl, rfl, rfl, rfl, id, rfl⟩
  | callback ev channel => exact ⟨_, rfl, callback_outside ev channel s⟩
  | store addr b => exact ⟨_, rfl, hostStore_outside addr b s⟩
  | load addr => exact ⟨_, rfl, hostLoad_outside addr s⟩
  | power on =>
    refine ⟨_, rfl, ?_⟩
    unfold supply
    split <;> exact ⟨rfl, rfl, rfl, id, rfl⟩
  | peerDma busy => exact ⟨_, rfl, rfl, rfl, rfl, id, rfl⟩
  | driverInit => exact absurd rfl noInit
  | finalize => exact absurd rfl noFinalize

/-- R430: a channel after driver init is at rest, with the card-detect sample taken. -/
theorem driverInit_inv (inv : Inv s) : Inv (driverInit s) := by
  unfold driverInit
  refine (Resting.of_standing (s := { s with
    h := Handle.reset s.cfg true, io := RequestIf.reset, seq := Sequencer.reset, finalized := false }) ?_
    (samplePresence_standing _) (by rw [samplePresence_h]) (by rw [samplePresence_seq]) (by rw [samplePresence_seq])).inv
  exact ⟨rfl, rfl, inv.bufferWf, inv.cardWf, rfl, rfl, rfl, rfl, rfl, rfl, fun mounted => absurd rfl mounted, nofun, nofun,
    by rintro (busy | mode) <;> simp [Handle.reset] at *⟩

/-- What the outside does is safe (R390–R393, R430–R439). -/
theorem arrive_safe (inv : Inv s) (i : Input) : Safe (arrive i s) := by
  by_cases init : i = .driverInit
  · subst init
    unfold arrive
    dsimp only
    split
    · exact .refused _
    · exact .next (driverInit_inv inv)
  by_cases final : i = .finalize
  · subst final
    unfold arrive
    dsimp only
    split
    · exact .refused _
    · case _ idle =>
      have rests := resting_resetCardFields (Resting.of_inv inv (Bool.eq_false_iff.2 idle))
      exact .next (Resting.inv (rests.of_standing (by rfl) (by rfl) (by rfl) (by rfl)))
  obtain ⟨t, arrived, outside⟩ := arrive_outside init final s
  rw [arrived]
  exact .next (inv_of_outside inv outside)

/-! ### Steps -/

theorem index_wf_of_configured (legal : configured s = true) : s.cfg.index.wf = true := by
  simp only [configured, Config.wf, Bool.and_eq_true] at legal
  exact legal.1.2

/-- A step that nothing from outside joins runs the staged command, or the control step, or nothing (R31, R222). -/
theorem step_alone_sound (inv : Inv s) (legal : configured s = true)
    (quiet : s.inputs = [] ∨ ∃ rest, s.inputs = none :: rest) : Sound (step s) := by
  have inv' := fetched_inv inv
  have index : (fetched s).cfg.index.wf = true := by rw [fetched_cfg]; exact index_wf_of_configured legal
  have code : nextCode s = s.seq.staged.map (.wire s.seq.app) := by
    unfold nextCode
    rcases quiet with listed | ⟨rest, listed⟩ <;> rw [listed]
  have own : stepAlone s = if s.h.opActive then advance (fetched s) else .next (fetched s) := by
    unfold stepAlone
    rcases quiet with listed | ⟨rest, listed⟩ <;> rw [listed]
  unfold step
  rw [if_pos legal, code]
  cases staged : s.seq.staged with
  | some f =>
    obtain ⟨i, read, fits⟩ := inv.stagedFits f staged
    simp only [Option.map_some, read]
    exact exec_wire_sound inv' (by rw [fetched_seq, staged]; rfl) (isWire_of_decode_wire read) (by rw [fetched_h]; exact fits)
  | none =>
    simp only [Option.map_none, own]
    split
    · exact advance_sound inv' index (by rw [fetched_h]; assumption) (by rw [fetched_seq]; exact staged)
    · exact .next inv'

/-- A step that a request or the outside joins is safe. -/
theorem step_joined_safe (inv : Inv s) (legal : configured s = true) {i : Input} {rest : List (Option Input)}
    (listed : s.inputs = some i :: rest) : Safe (step s) := by
  have index : (fetched s).cfg.index.wf = true := by rw [fetched_cfg]; exact index_wf_of_configured legal
  unfold step
  rw [if_pos legal]
  cases i with
  | request w =>
    have code : nextCode s = some (.request w) := by unfold nextCode; rw [listed]
    rw [code]
    exact exec_request_safe (fetched_inv inv) index (isWire_decodeRequest w)
  | callback | store | load | power | peerDma | driverInit | finalize =>
    have code : nextCode s = none := by unfold nextCode; rw [listed]
    have alone : ∀ a, s.inputs = some a :: rest → stepAlone s = arrive a (fetched s) := fun a same => by
      unfold stepAlone; rw [same]
    rw [code]
    dsimp only
    rw [alone _ listed]
    exact arrive_safe (fetched_inv inv) _

/-- Every step from a sound state under a legal configuration is safe. -/
theorem step_safe (inv : Inv s) (legal : configured s = true) : Safe (step s) := by
  rcases listed : s.inputs with _ | ⟨_ | i, rest⟩
  · exact (step_alone_sound inv legal (.inl listed)).safe
  · exact (step_alone_sound inv legal (.inr ⟨rest, listed⟩)).safe
  · exact step_joined_safe inv legal listed

end

/-! ### The first error -/

section
variable {s t : State} {e : ErrorKind}

/-- The error of a running operation is still recorded, and is the RESULT if the operation has returned. -/
structure ErrorHeld (e : ErrorKind) (t : State) : Prop where
  recorded : t.h.stickyError = some e
  returned : t.h.opActive = false → t.io.result = errorResult e

theorem ErrorHeld.of_active (recorded : t.h.stickyError = some e) (active : t.h.opActive = true) : ErrorHeld e t :=
  ⟨recorded, fun idle => by rw [active] at idle; cases idle⟩

/-- While an operation runs every request is turned away but REQUEST_STOP (R360). -/
theorem exec_request_busy {i : Instr} (request : isWire i = false) (active : s.h.opActive = true)
    (next : exec i s = .next t) : t = raiseStop s := by
  have turned : ∀ k, accept k s ≠ .next t := fun k answered => by
    unfold accept at answered
    rw [if_pos active] at answered
    split at answered <;> cases answered
  cases i with
  | mount | unmount | read | write | getGeometry | getMediaKind | getWp | isPresent =>
    simp only [exec, execMount, execUnmount, execRead, execWrite, execGetGeometry, execGetMediaKind, execGetWp,
      execIsPresent] at next
    exact absurd next (turned _)
  | requestStop =>
    simp only [exec, execRequestStop, active, if_true] at next
    split at next <;> cases next
    rfl
  | lockUnlock | standby | active | reservedRequest => cases next
  | _ => cases request

/-- R386, R404: what recovery's commands answer changes neither the error nor the RESULT. -/
theorem afterRecoveryCommand_errorHeld {r : CmdResult} (recorded : s.h.stickyError = some e) (saved : s.seq.saved = some e)
    (active : s.h.opActive = true) (next : afterRecoveryCommand r s = .next t) : ErrorHeld e t := by
  have returns : ErrorHeld e (recoveryReturn s) :=
    ⟨saved, fun _ => by rw [recoveryReturn_result, saved]; rfl⟩
  unfold afterRecoveryCommand at next
  split at next
  · cases next; exact returns
  · split at next
    · cases next; exact returns
    · cases next; exact .of_active recorded active

/-- R401, R405: recovery captures the recorded error and returns it. -/
theorem recover_errorHeld (recorded : s.h.stickyError = some e) (active : s.h.opActive = true)
    (next : recover s = .next t) : ErrorHeld e t := by
  have frame := recoveryEntry_frame s
  rcases recover_cases s with ⟨-, ran⟩ | ⟨-, ran⟩ <;> rw [ran] at next
  · obtain ⟨rca, -, staged⟩ := withImage_cases next
    cases staged
    exact .of_active (by rw [stage_h, frame.h]; exact recorded) (by rw [stage_h, frame.h]; exact active)
  · cases next
    have saved : (recoveryEntry s).seq.saved = some e := by rw [frame.seq]; exact recorded
    exact ⟨saved, fun _ => by rw [recoveryReturn_result, saved]; rfl⟩

/-- A running operation with a recorded error is in recovery, or unwinding a stop (R42, R321). -/
theorem phase_of_error (inv : Inv s) (active : s.h.opActive = true) (recorded : s.h.stickyError = some e) :
    s.h.phase = .recovery ∨ (s.h.phase = .xStop ∧ s.seq.aborting = true) := by
  by_cases recovery : s.h.phase = .recovery
  · exact .inl recovery
  have cause := inv.noErrorYet active recovery
  by_cases aborting : s.seq.aborting = true
  · exact .inr ⟨(inv.abortingStops aborting active).resolve_right recovery, aborting⟩
  · rw [recorded, if_neg aborting] at cause
    cases cause

theorem advance_errorHeld (inv : Inv s) (active : s.h.opActive = true) (recorded : s.h.stickyError = some e)
    (next : advance s = .next t) : ErrorHeld e t := by
  unfold advance at next
  rcases phase_of_error inv active recorded with phase | ⟨phase, aborting⟩
  · split at next
    · unfold advanceAfter at next
      rw [phase] at next
      exact afterRecoveryCommand_errorHeld recorded ((inv.recoverySaved phase).2.trans recorded) active next
    · unfold advanceAlone at next
      rw [phase] at next
      cases next
  · split at next
    · unfold advanceAfter at next
      rw [phase] at next
      dsimp only at next
      rw [afterStop, if_pos aborting] at next
      exact recover_errorHeld recorded active next
    · unfold advanceAlone at next
      rw [phase] at next
      cases next

theorem errorHeld_of_outside (recorded : s.h.stickyError = some e) (active : s.h.opActive = true) (outside : Outside s t) :
    ErrorHeld e t :=
  .of_active (by rw [outside.h]; exact recorded) (by rw [outside.h]; exact active)

end

/-- Settles O58: a channel after driver init is at rest. -/
theorem resetMeetsInvariant : Obligations.ResetMeetsInvariant := by
  have rests : ∀ cfg level, Inv (State.resetWith cfg level) := fun cfg level =>
    Resting.inv ⟨rfl, rfl, rfl, rfl, rfl, rfl, rfl, rfl, rfl, rfl, fun mounted => absurd rfl mounted, nofun, nofun,
      by rintro (busy | mode) <;> simp [State.resetWith, Handle.reset] at *⟩
  exact ⟨rests _ _, rests⟩

/-- Settles O59: a step that answers has a legal configuration, and every such step is safe. -/
theorem stepKeepsInvariant : Obligations.StepKeepsInvariant :=
  fun _ t inv next => (step_safe inv (step_cases next).1).keeps t next

/-- Settles O60: the engine's own step answers a sound state, and what the host or the outside does is safe. -/
theorem engineNeverStops : Obligations.EngineNeverStops := fun _ inv legal =>
  ⟨(step_safe inv legal).live, fun quiet => (step_alone_sound inv legal quiet).imp fun _ => And.left⟩

/-- Settles O51: a wire command records no error, the control steps of recovery return the captured one, and nothing that
the host or the outside may do ends the operation. -/
theorem firstErrorIsTheResult : Obligations.FirstErrorIsTheResult := by
  intro s t e inv active recorded next
  suffices held : ErrorHeld e t from ⟨held.recorded, held.returned⟩
  have inv' := fetched_inv inv
  have active' : (fetched s).h.opActive = true := by rw [fetched_h]; exact active
  have recorded' : (fetched s).h.stickyError = some e := by rw [fetched_h]; exact recorded
  obtain ⟨-, request | frame | arrival | control | idle⟩ := step_cases next
  · obtain ⟨w, -, -, ran⟩ := request
    rw [exec_request_busy (isWire_decodeRequest w) active' ran]
    exact .of_active recorded' active'
  · obtain ⟨f, i, -, read, ran⟩ := frame
    obtain ⟨a, r, rfl, kept⟩ := exec_wire_frame (isWire_of_decode_wire read) ran
    exact .of_active (by simp only [endCommand]; rw [kept.h]; exact recorded') (by simp only [endCommand]; rw [kept.h]; exact active')
  · obtain ⟨i, -, -, -, arrived⟩ := arrival
    by_cases init : i = .driverInit
    · subst init; simp only [arrive, active', if_true] at arrived; cases arrived
    by_cases final : i = .finalize
    · subst final; simp only [arrive, active', if_true] at arrived; cases arrived
    obtain ⟨u, arrives, outside⟩ := arrive_outside init final (fetched s)
    rw [arrives] at arrived
    cases arrived
    exact errorHeld_of_outside recorded' active' outside
  · exact advance_errorHeld inv' active' recorded' control.2.2
  · rw [active] at idle
    cases idle.2.1

end Sys2Proof.Proofs
end

section
/-! The mount's control steps (R223–R264): what each phase does with the result of its command, up to the next command or
the end of the operation. -/

namespace Sys2Proof.Proofs

open Sys2Proof Sys2Proof.Machine Sys2Proof.Claims Sys2Proof.Laws

/-! ### From a step to its control function -/

/-- The control function of each phase that issues a command. -/
def afterPhase (p : Phase) (r : CmdResult) (s : State) : Result :=
  match p with
  | .mReset => afterReset r s
  | .mIfCond => afterIfCond r s
  | .mOcrSd => afterOcrSd r s
  | .mOcrMmc => afterOcrMmc r s
  | .mCid => afterCid r s
  | .mRca => afterRca r s
  | .mCsd => afterCsd r s
  | .mDsr => afterDsr r s
  | .mScr => afterScr r s
  | .mSelect => afterSelect r s
  | .mBlockLen => afterBlockLen r s
  | .mBusWidth => afterBusWidth r s
  | .mClrStatus => afterClrStatus r s
  | .mSdStatus => afterSdStatus r s
  | .xSingle => afterSingle r s
  | .xMulti => afterMulti r s
  | .xStop => afterStop r s
  | .xVerify => afterVerify r s
  | .xWrCount => afterWrCount r s
  | .recovery => afterRecoveryCommand r s
  | .idle | .mGeometry | .mDone | .xCheck | .xBurst | .xDone | .hostOp => .fault .sequencerStuck

theorem advanceAfter_eq_afterPhase (r : CmdResult) (s : State) : advanceAfter r s = afterPhase s.h.phase r s := rfl

section
variable {s : State} {p : Phase} {r : CmdResult} {rca : BitVec 16} {x : Result}

/-- After a command the engine's own step is its phase's control function. -/
theorem moves_afterPhase (done : After s p r) (steps : afterPhase p r s = x) : Moves s x := by
  have moves := moves_of_after done
  rwa [advanceAfter_eq_afterPhase, done.phase, steps] at moves

/-- In a phase without a command it is that of `advanceAlone`. -/
theorem moves_of_alone (alone : Alone s p) : Moves s (advanceAlone s) :=
  moves_alone alone.configured alone.active alone.unstaged alone.result

/-- A command with the card's address is spelled with it (R132). -/
theorem stageRca_eq_spelled (address : s.h.rca = .holding rca) (p : Phase) (cmd : Indices → BitVec 6) :
    stageRca p cmd s = .next (spelled p cmd (rca ++ 0#16) false s) := by
  rw [stageRca_written address, stage_eq_spelled]
  rfl

/-- The command that an accepted CMD55 announced is spelled announced (R131). -/
theorem stageAcmd_eq_spelled (announced : s.seq.app = true) (p : Phase) (cmd : Indices → BitVec 6) (arg : Word) :
    stageAcmd p cmd arg s = spelled p cmd arg true s := by
  rw [stageAcmd, spelled, ← announced, frameHead_bits]

/-- An image that has been written is read (R39). -/
theorem withImage_of_holding {w : Nat} {image : CardRegister w} {v : BitVec w} (written : image = .holding v)
    (k : BitVec w → Result) : withImage image k = k v := by
  rw [written, withImage_holding]

/-- With nothing staged, a phase without a command is entered by its name and the spent result. -/
theorem enterPhase_of_unstaged (unstaged : s.seq.staged = none) (p : Phase) :
    enterPhase p s = { s with h.phase := p, seq.done := none } := by
  rw [enterPhase, ← unstaged]

/-- The SD probe's first CMD55 (R230). -/
theorem startOcrSd_eq_spelled (address : s.h.rca = .holding rca) : startOcrSd s =
    .next (spelled .mOcrSd (·.cmd55) (rca ++ 0#16) false { s with seq.left := s.cfg.ocrPollLimit }) :=
  stageRca_eq_spelled (s := { s with seq.left := s.cfg.ocrPollLimit }) address ..

end

/-! ### Reset, interface condition, operating condition -/

section
variable {s : State}

theorem idleReached_hostV2 (first : s.seq.resume = .toIfCond) (hostV2 : s.seq.hostV2 = true) :
    idleReached s = .next (stage .mIfCond (·.cmd8) (ifCondArg s.cfg) s) := by
  rw [idleReached, first]
  exact if_pos hostV2

theorem idleReached_legacy (first : s.seq.resume = .toIfCond) (legacy : s.seq.hostV2 = false) :
    idleReached s = startOcrSd { s with h.ifOk := false } := by
  rw [idleReached, first]
  exact if_neg (Bool.eq_false_iff.1 legacy)

theorem idleReached_toOcrSd (replay : s.seq.resume = .toOcrSd) : idleReached s = startOcrSd s := by
  rw [idleReached, replay]

theorem idleReached_toOcrMmc (replay : s.seq.resume = .toOcrMmc) : idleReached s = .next (startOcrMmc s) := by
  rw [idleReached, replay]

end

/-- Settles O34: by the attempts left, and by what the reset was for. -/
theorem resetAttempts : Obligations.ResetAttempts := by
  refine ⟨fun s e done => ⟨fun left => ?_, fun last => ?_⟩, fun s rca done address => ⟨fun first hostV2 => ?_,
    fun first legacy => ?_, fun replay => ?_, fun replay => ?_⟩⟩
  all_goals refine moves_afterPhase done ?_; simp only [afterPhase, afterReset]
  · rw [if_neg (by omega), stage_eq_spelled]
  · rw [if_pos last]
  · rw [idleReached_hostV2 first hostV2, stage_eq_spelled]
    rfl
  · rw [idleReached_legacy first legacy]
    exact startOcrSd_eq_spelled (s := { s with h.ifOk := false }) address
  · rw [idleReached_toOcrSd replay]
    exact startOcrSd_eq_spelled address
  · rw [idleReached_toOcrMmc replay, startOcrMmc, stage_eq_spelled]
    rfl

/-- Settles O35: the echo is compared first, then the voltage. -/
theorem interfaceConditionChecked : Obligations.InterfaceConditionChecked := by
  refine ⟨fun s e done => ?_, fun s v done image => ⟨fun echo => ?_, fun echo version => ?_,
    fun rca echo version address => ?_⟩⟩
  all_goals refine moves_afterPhase done ?_; simp only [afterPhase, afterIfCond]
  · rw [startReset, stage_eq_spelled]
  all_goals rw [withImage_of_holding image]
  · rw [if_pos echo]
  · rw [if_neg (by simp [echo]), if_pos version]
  · rw [if_neg (by simp [echo]), if_neg (by simp [version])]
    exact startOcrSd_eq_spelled (s := { s with h.ifOk := true }) address

/-- Settles O36: by the announcement, the ready bit and the polls left. -/
theorem operatingConditionProbes : Obligations.OperatingConditionProbes := by
  refine fun s => ⟨fun e done => ?_, fun done announced => ?_, fun ocr done plain image => ⟨fun ready => ?_,
    fun busy last => ?_, fun rca busy left address => ?_⟩, fun e done => ?_, fun ocr done image => ⟨fun ready => ?_,
    fun busy last => ?_, fun busy left => ?_⟩⟩
  all_goals refine moves_afterPhase done ?_; simp only [afterPhase, afterOcrSd, afterOcrMmc]
  · rw [startReset, stage_eq_spelled]
  · rw [if_pos announced, stageAcmd_eq_spelled announced]
    rfl
  · rw [if_neg (by simp [plain]), withImage_of_holding image, if_pos ready, stage_eq_spelled]
  · rw [if_neg (by simp [plain]), withImage_of_holding image, if_neg (by simp [busy]), if_pos last, startReset, stage_eq_spelled]
    rfl
  · rw [if_neg (by simp [plain]), withImage_of_holding image, if_neg (by simp [busy]), if_neg (by omega)]
    exact stageRca_eq_spelled (s := pollDelay { s with seq.left := s.seq.left - 1 }) address ..
  · rw [withImage_of_holding image, if_pos ready, stage_eq_spelled]
  · rw [withImage_of_holding image, if_neg (by simp [busy]), if_pos last]
    rfl
  · rw [withImage_of_holding image, if_neg (by simp [busy]), if_neg (by omega), stage_eq_spelled]
    rfl

/-! ### Identification, address, registers -/

/-- R239–R259: after its identification a mount raises every failed command at once. -/
theorem afterPhase_failed {p : Phase}
    (mem : p ∈ [Phase.mCid, .mRca, .mCsd, .mDsr, .mScr, .mSelect, .mBlockLen, .mBusWidth, .mClrStatus, .mSdStatus])
    (e : ErrorKind) (s : State) : afterPhase p (.failed e) s = raise e s := by
  simp only [List.mem_cons, List.not_mem_nil, or_false] at mem
  rcases mem with rfl | rfl | rfl | rfl | rfl | rfl | rfl | rfl | rfl | rfl <;> rfl

/-- Settles O37: only a zero SD address is asked for again, while attempts are left. -/
theorem zeroAddressRetried : Obligations.ZeroAddressRetried := by
  refine ⟨fun s e p mem done => moves_afterPhase done (afterPhase_failed mem e s), fun s done => ⟨fun mmc => ?_,
    fun sd => ?_⟩, fun s rca done address => ⟨fun taken => ?_, fun sd zero left => ?_, fun sd zero last => ?_⟩⟩
  all_goals refine moves_afterPhase done ?_; simp only [afterPhase, afterCid, afterRca]
  · rw [if_pos mmc, stage_eq_spelled]
    rfl
  · rw [if_neg sd, stage_eq_spelled]
  all_goals rw [withImage_of_holding address]
  · rw [if_pos taken, stage_eq_spelled]
    rfl
  · rw [if_neg (by simp [sd, zero]), if_neg (by omega), stage_eq_spelled]
  · rw [if_neg (by simp [sd, zero]), if_pos last]

/-- R243, R244: on to the geometry for an MMC card, to the SCR for an SD card. -/
theorem toScr_onward {s : State} {rca : BitVec 16} (address : s.h.rca = .holding rca) (unstaged : s.seq.staged = none) :
    ∃ t, toScr s = .next t ∧ (s.h.mediaKind = .mmc → t = { s with h.phase := .mGeometry, seq.done := none }) ∧
      (s.h.mediaKind ≠ .mmc → t = spelled .mScr (·.cmd55) (rca ++ 0#16) false s) := by
  by_cases mmc : s.h.mediaKind = .mmc
  · exact ⟨_, if_pos mmc, fun _ => enterPhase_of_unstaged unstaged _, fun sd => absurd mmc sd⟩
  · exact ⟨_, (if_neg mmc).trans (stageRca_eq_spelled address ..), fun other => absurd other mmc, fun _ => rfl⟩

/-- R243: the revision by SD_SPEC, and SD_SPEC3 where that is 2. -/
theorem sdRevision_of_sdSpec (p : Positions) (scr : BitVec 64) :
    (scr.extractLsb' p.sdSpec 4 = 0#4 → sdRevision p scr = .r1_0x) ∧
    (scr.extractLsb' p.sdSpec 4 = 1#4 → sdRevision p scr = .r1_10) ∧
    (scr.extractLsb' p.sdSpec 4 = 2#4 → scr.getLsbD p.sdSpec3 = true → sdRevision p scr = .r3_00) ∧
    (scr.extractLsb' p.sdSpec 4 = 2#4 → scr.getLsbD p.sdSpec3 = false → sdRevision p scr = .r2_00) ∧
    (3#4 ≤ scr.extractLsb' p.sdSpec 4 → sdRevision p scr = .r2_00) := by
  refine ⟨fun spec => ?_, fun spec => ?_, fun spec three => ?_, fun spec two => ?_, fun later => ?_⟩
  · simp [sdRevision, fieldNat, spec]
  · simp [sdRevision, fieldNat, spec]
  · simp [sdRevision, fieldNat, spec, three]
  · simp [sdRevision, fieldNat, spec, two]
  · have above : 3 ≤ fieldNat scr p.sdSpec 4 := later
    simp only [sdRevision]
    rw [if_neg (by omega), if_neg (by omega), if_neg (by omega)]

/-- Settles O38: DSR_IMP asks for CMD4, and the SCR's two fields give the revision. -/
theorem revisionFromScr : Obligations.RevisionFromScr := by
  refine ⟨fun s rca address => ⟨fun csd done image implemented => ?_, fun csd done image absent => ?_, fun done => ?_,
    fun done announced => ?_⟩, fun s scr done plain image => ?_⟩
  · refine moves_afterPhase done ?_
    simp only [afterPhase, afterCsd]
    rw [withImage_of_holding image, dsrImplemented, if_pos implemented, stage_eq_spelled]
    rfl
  · obtain ⟨t, next, onward⟩ := toScr_onward address done.unstaged
    refine ⟨t, moves_afterPhase done ?_, onward⟩
    simp only [afterPhase, afterCsd]
    rw [withImage_of_holding image, dsrImplemented, if_neg (by simp [absent]), next]
  · obtain ⟨t, next, onward⟩ := toScr_onward address done.unstaged
    exact ⟨t, moves_afterPhase done next, onward⟩
  · refine moves_afterPhase done ?_
    simp only [afterPhase, afterScr]
    rw [if_pos announced, stageAcmd_eq_spelled announced]
  · refine ⟨enterPhase .mGeometry { s with h.revision := sdRevision s.cfg.pos scr }, moves_afterPhase done ?_, rfl, rfl, rfl,
      ?_⟩
    · simp only [afterPhase, afterScr]
      rw [if_neg (by simp [plain]), image, withImage_holding]
    · simp only [enterPhase]
      exact sdRevision_of_sdSpec s.cfg.pos scr

/-! ### Geometry -/

/-- R252: the write-protect flags without a pin. -/
theorem setWriteProtect_unsupported {s : State} {rom : Bool} {roms : List Bool} (csd : Image)
    (unsupported : s.cfg.writeProtectSupported = false) (listed : s.env.rom = rom :: roms) :
    setWriteProtect csd s = { s with
      h.writeProtectFlags := writeProtectFlagsOf s.cfg.pos false rom csd, env.rom := roms } := by
  simp [setWriteProtect, sampleWriteProtect, unsupported, drawRom, listed]

/-- R252: the write-protect flags with the pin sampled. -/
theorem setWriteProtect_supported {s : State} {rom pin : Bool} {roms pins : List Bool} (csd : Image)
    (supported : s.cfg.writeProtectSupported = true) (listed : s.env.rom = rom :: roms)
    (pinned : s.env.writeProtect = pin :: pins) :
    setWriteProtect csd s = { s with
      h.writeProtectFlags := writeProtectFlagsOf s.cfg.pos pin rom csd, env.rom := roms, env.writeProtect := pins
      log := calls s [.writeProtectLevel] ++ s.log } := by
  simp [setWriteProtect, sampleWriteProtect, supported, drawRom, listed, readWriteProtect, pinned, logCall, calls, portEvent]

/-- The card with its capacity class and sector count (R246, R250, R251). -/
def sizedCard (csd : Image) (sectors : Nat) (s : State) : State :=
  { s with
    h.highCapacity := decide (s.h.mediaKind = .sd) && decide (csdStructure s.cfg.pos csd = 1)
    h.cardSectorSize := sectors }

/-- A mount's geometry step where the card's sector count is given (R246–R253). -/
theorem geometry_sized {s : State} {csd : Image} {sectors : Nat} (image : s.h.csd = .holding csd)
    (count : sectorCount s.cfg.pos s.h.mediaKind s.h.revision csd = some sectors) :
    geometry s = stageRca .mSelect (·.cmd7) (setWriteProtect csd (sizedCard csd sectors s)) := by
  rw [geometry, image, withImage_holding]
  simp only [count]
  rfl

/-- A structure that the revision cannot have is raised (R249). -/
theorem geometry_unsized {s : State} {csd : Image} (image : s.h.csd = .holding csd)
    (count : sectorCount s.cfg.pos s.h.mediaKind s.h.revision csd = none) :
    geometry s = raise .registerVersionError { s with
      h.highCapacity := decide (s.h.mediaKind = .sd) && decide (csdStructure s.cfg.pos csd = 1) } := by
  rw [geometry, image, withImage_holding]
  simp only [count]

section
variable {s : State} {csd : Image}

theorem moves_geometry (alone : Alone s .mGeometry) : Moves s (geometry s) := by
  have moves := moves_of_alone alone
  rwa [advanceAlone, alone.phase] at moves

/-- R247–R253: a card of `sectors` sectors is selected, with its flags taken. -/
theorem moves_geometry_sized (alone : Alone s .mGeometry) (image : s.h.csd = .holding csd) {sectors : Nat}
    (count : sectorCount s.cfg.pos s.h.mediaKind s.h.revision csd = some sectors) {rca : BitVec 16} {rom : Bool}
    {roms : List Bool} (address : s.h.rca = .holding rca) (listed : s.env.rom = rom :: roms) :
    let sized := fun (pin : Bool) (t : State) => spelled .mSelect (·.cmd7) (rca ++ 0#16) false { t with
      h.highCapacity := decide (s.h.mediaKind = .sd) && decide (csdStructure s.cfg.pos csd = 1)
      h.cardSectorSize := sectors, h.writeProtectFlags := writeProtectFlagsOf s.cfg.pos pin rom csd, env.rom := roms }
    (s.cfg.writeProtectSupported = false → Moves s (.next (sized false s))) ∧
    ∀ pin pins, s.cfg.writeProtectSupported = true → s.env.writeProtect = pin :: pins → Moves s (.next (sized pin
      { s with env.writeProtect := pins, log := calls s [.writeProtectLevel] ++ s.log })) := by
  have moves := moves_geometry alone
  rw [geometry_sized image count] at moves
  refine ⟨fun unsupported => ?_, fun pin pins supported pinned => ?_⟩
  · rw [setWriteProtect_unsupported (s := sizedCard csd sectors s) csd unsupported listed,
      stageRca_eq_spelled (rca := rca) (by exact address)] at moves
    exact moves
  · rw [setWriteProtect_supported (s := sizedCard csd sectors s) csd supported listed pinned,
      stageRca_eq_spelled (rca := rca) (by exact address)] at moves
    exact moves

end

/-- Settles O39: `sectorCount` chooses the formula; a sized card is selected, any other is raised. -/
theorem geometryFromCsd : Obligations.GeometryFromCsd := by
  intro s csd alone image
  have sized := fun sectors count (rca : BitVec 16) (rom : Bool) (roms : List Bool) address listed =>
    moves_geometry_sized (sectors := sectors) (rca := rca) (rom := rom) (roms := roms) alone image count address listed
  have raised := fun count => geometry_unsized (s := s) image count ▸ moves_geometry alone
  refine ⟨fun mmc => sized _ ?_, fun sd => ⟨fun zero => sized _ ?_, fun one revision => sized _ ?_,
    fun one old older => raised ?_, fun reserved => raised ?_⟩⟩
  · rw [sectorCount, if_pos mmc]; rfl
  · rw [sectorCount, if_neg sd, if_pos (show csdStructure s.cfg.pos csd = 0 from zero)]; rfl
  · rw [sectorCount, if_neg sd, if_neg (by rw [csdStructure, fieldNat, one]; decide), if_pos ⟨one, revision⟩]; rfl
  · rw [sectorCount, if_neg sd, if_neg (by rw [csdStructure, fieldNat, one]; decide), if_neg (by simp [old, older])]
  · rw [sectorCount, if_neg sd, if_neg (by rw [csdStructure, fieldNat]; omega), if_neg (by rw [csdStructure, fieldNat]; omega)]

/-! ### Mounting the memory area -/

/-- Settles O41: the 4-bit bus for an SD card that has it on a host that can drive it; then CMD55 and ACMD42. -/
theorem busWidthNegotiated : Obligations.BusWidthNegotiated := by
  refine ⟨fun s rca done address => ⟨fun scr host sd image four => ?_, fun scr sd image narrow => ?_, fun csd mmc image => ?_⟩,
    fun s rca address => ⟨fun done announced => ?_, fun done plain sd => ?_, fun done announced => ?_, fun done plain => ?_⟩⟩
  all_goals refine moves_afterPhase done ?_; simp only [afterPhase, afterBlockLen, afterBusWidth, afterClrStatus, toClrStatus]
  · rw [if_pos (by simp [host, sd]), withImage_of_holding image, if_pos (by simp [wideBus, host, sd, four])]
    exact stageRca_eq_spelled address ..
  · have three : wideBus s.cfg.pos s.cfg.host4Bit s.h.mediaKind scr = false := by
      rcases narrow with h | h <;> simp [wideBus, h]
    rw [withImage_of_holding image, three, if_neg (by simp [sd] : ¬ s.h.mediaKind = .mmc), if_neg Bool.false_ne_true, ite_self]
    exact stageRca_eq_spelled address ..
  · rw [if_neg (by simp [mmc]), if_pos mmc, mmcTail, withImage_of_holding image, enterPhase_of_unstaged (by exact done.unstaged)]
    rfl
  · rw [if_pos announced, stageAcmd_eq_spelled announced]
  · rw [if_neg (by simp [plain]), if_neg sd]
    exact stageRca_eq_spelled address ..
  · rw [if_pos announced, stageAcmd_eq_spelled announced]
  · rw [if_neg (by simp [plain])]
    exact stageRca_eq_spelled address ..

/-- Settles O42: the fields are those that R261–R263 compute. -/
theorem sdStatusFields : Obligations.SdStatusFields := by
  refine ⟨fun s done announced => ?_, fun s csd st done plain image status => ?_⟩
  all_goals refine moves_afterPhase done ?_; simp only [afterPhase, afterSdStatus]
  · rw [if_pos announced, stageAcmd_eq_spelled announced]
  · rw [if_neg (by simp [plain]), sdTail, withImage_of_holding image, withImage_of_holding status, enterPhase_of_unstaged (by exact done.unstaged)]
    rfl

/-- Settles O43: both last steps halt the clock and return with their own result. -/
theorem operationsReturnOk : Obligations.OperationsReturnOk := by
  refine fun s clean => ⟨fun alone => ?_, fun alone => ?_⟩ <;> have moves := moves_of_alone alone <;>
    rw [advanceAlone, alone.phase] at moves
  · rw [← finish_haltClock_eq_returned (s := { s with h.mountState := .mountedUnlocked }) 0#32 clean]
    exact moves
  · rw [← finish_haltClock_eq_returned 0#32 clean]
    exact moves

end Sys2Proof.Proofs
end

section
/-! The burst loop's control steps (R299–R321): the boundary, what follows each command, the checks of CMD12 and CMD13, the
written-block count. -/

namespace Sys2Proof.Proofs

open Sys2Proof Sys2Proof.Machine Sys2Proof.Claims Sys2Proof.Laws

section
variable {s : State} {q : TransferRequest}

/-- A transfer's step is run on its request (R57). -/
theorem withRequest_of_some (request : s.h.req = some q) (k : TransferRequest → State → Result) : withRequest k s = k q s := by
  rw [withRequest, request]

/-- A burst that is done, with nothing staged, is `burstFinished` (R299). -/
theorem burstDone_eq_finished (unstaged : s.seq.staged = none) : burstDone q s = burstFinished q s := by
  have h := settleBurst_h q s
  have seq := settleBurst_seq q s
  unfold burstDone burstFinished enterPhase
  generalize settleBurst q s = t at h seq ⊢
  simp [h, seq, unstaged]

/-- R299: the boundary, by the sectors left and the stop flag. -/
theorem burstBoundary_of_request (request : s.h.req = some q) : burstBoundary s =
    if q.count ≤ q.done then .next (enterPhase .xDone s)
    else if s.h.compulsoryStop then .next (compulsoryStop s)
    else
      let b := nextBurst q s.h.transferChunkLimit s.h.cardSectorSize
      let t := { s with seq.burst := b, seq.doubtful := bytesInDoubt q s, h.blockMode := chooseBlockMode b.n }
      match chooseBlockMode b.n with
      | .single => .next (startSingle q.dir t)
      | .multi => .next (startMulti q.dir t) := withRequest_of_some request _

end

/-- Settles O44: by the sectors left, the stop flag, and the size of the next burst. -/
protected theorem burstBoundary : Obligations.BurstBoundary := by
  intro s q alone request
  have moves : Moves s (burstBoundary s) := by
    have moves := moves_of_alone alone
    rwa [advanceAlone, alone.phase] at moves
  rw [burstBoundary_of_request request] at moves
  refine ⟨fun spent => ?_, fun more stop => ?_, fun more going => ⟨fun single => ?_, fun multi => ?_⟩⟩
  · rw [if_pos spent, enterPhase_of_unstaged alone.unstaged, ← alone.result] at moves
    exact moves
  · rw [if_neg (by omega), if_pos stop, compulsoryStop, stage_eq_spelled] at moves
    exact moves
  all_goals rw [if_neg (by omega), if_neg (by simp [going])] at moves
  · have mode : chooseBlockMode (nextBurst q s.h.transferChunkLimit s.h.cardSectorSize).n = .single := if_pos single
    simp only [mode, startSingle, stage_eq_spelled] at moves
    exact moves
  · have mode : chooseBlockMode (nextBurst q s.h.transferChunkLimit s.h.cardSectorSize).n = .multi := if_neg (by
      rw [not_le]; exact multi)
    simp only [mode, startMulti, stage_eq_spelled] at moves
    exact moves

/-! ### The tolerance at the last sector -/

section
variable {p : R1Positions} {last : Bool} {status : Word} {e : ErrorKind}

/-- R316: an OUT_OF_RANGE-only status of the card's last sector is no error, and neither is a clean one. -/
theorem r1ErrorLast_eq_none
    (fine : r1Error p status = none ∨ last = true ∧ status &&& r1ErrMask p = 1#32 <<< p.outOfRange) :
    r1ErrorLast p last status = none := by
  rw [r1ErrorLast]
  rcases fine with clean | tolerated
  · rw [clean, ite_self]
  · exact if_pos tolerated

theorem r1ErrorLast_eq_some (bad : r1Error p status = some e)
    (intolerable : ¬ (last = true ∧ status &&& r1ErrMask p = 1#32 <<< p.outOfRange)) :
    r1ErrorLast p last status = some e :=
  (if_neg intolerable).trans bad

end

/-- R299, R316: of a single-block burst only the final sector reaches the card's last one. -/
theorem verifyLast_iff {mode : BlockMode} {b : Burst} :
    verifyLast mode b = true ↔ b.last = true ∧ (mode = .single → b.k + 1 = b.n) := by
  cases mode <;> simp [verifyLast]

section
variable {s : State} {q : TransferRequest} {e : ErrorKind}

theorem afterStop_of_going (going : s.seq.aborting = false) (request : s.h.req = some q) : afterStop .ok s =
    match r1ErrorLast s.cfg.pos.r1 s.seq.burst.last s.h.lastR1 with
    | some e => failBurst q e s
    | none => stageRca .xVerify (·.cmd13) s := by
  rw [afterStop, if_neg (by simp [going])]
  exact withRequest_of_some request _

theorem afterVerify_ok (request : s.h.req = some q) : afterVerify .ok s =
    match r1ErrorLast s.cfg.pos.r1 (verifyLast s.h.blockMode s.seq.burst) s.h.lastR1 with
    | some e => failBurst q e s
    | none => if inTran s.cfg.pos.r1 s.h.lastR1 then afterVerified q s else failBurst q .internalError s :=
  withRequest_of_some request _

end

/-- Settles O45: the check by `r1ErrorLast`, then the card's state, then what is left of the burst. -/
theorem lastSectorTolerance : Obligations.LastSectorTolerance := by
  intro s q request going
  refine ⟨fun rca done address fine => ?_, fun e done bad intolerable => ?_, fun e done bad intolerable => ?_,
    fun done fine elsewhere => ?_, fun rca done fine ready address => ?_⟩
  · refine moves_afterPhase done ?_
    rw [afterPhase, afterStop_of_going going request, r1ErrorLast_eq_none fine]
    exact stageRca_eq_spelled address ..
  · refine moves_afterPhase done ?_
    rw [afterPhase, afterStop_of_going going request, r1ErrorLast_eq_some bad intolerable]
    rfl
  · refine moves_afterPhase done ?_
    rw [← verifyLast_iff] at intolerable
    rw [afterPhase, afterVerify_ok request, r1ErrorLast_eq_some bad intolerable]
    rfl
  all_goals rw [← verifyLast_iff] at fine
  · refine moves_afterPhase done ?_
    rw [afterPhase, afterVerify_ok request, r1ErrorLast_eq_none fine]
    exact if_neg fun ready => elsewhere (inTran_iff.1 ready)
  · have verified : afterPhase .xVerify .ok s = afterVerified q s := by
      rw [afterPhase, afterVerify_ok request, r1ErrorLast_eq_none fine]
      exact if_pos (inTran_iff.2 ready)
    have finished : (Host.Outcome.next (burstDone q s) : Result) = .next (burstFinished q s) := by rw [burstDone_eq_finished done.unstaged]
    refine ⟨fun single more => ?_, fun single spent => ?_, fun multi other => ?_, fun multi write sd => ?_⟩
    all_goals refine moves_afterPhase done (verified.trans ?_); unfold afterVerified
    · rw [single]
      exact (if_pos more).trans (congrArg _ (stage_eq_spelled ..))
    · rw [single]
      exact (if_neg (by omega)).trans finished
    · rw [multi]
      refine (if_neg ?_).trans finished
      rintro ⟨write, sd⟩
      rcases other with read | mmc
      · rw [read] at write; cases write
      · exact mmc sd
    · rw [multi]
      exact (if_pos ⟨write, sd⟩).trans (stageRca_eq_spelled address ..)

/-- Settles O46: a failure is raised over the spoiled burst, an accepted command has its one successor. -/
theorem burstCommandsFollowed : Obligations.BurstCommandsFollowed := by
  intro s q request
  refine ⟨fun e p mem done => ?_, fun e done going => ?_, fun r done aborting => ?_, fun rca address =>
    ⟨fun done => ?_, fun done last mmc => ?_, fun done other => ?_⟩⟩
  all_goals refine moves_afterPhase done ?_
  · simp only [List.mem_cons, List.not_mem_nil, or_false] at mem
    rcases mem with rfl | rfl | rfl | rfl <;>
      simp only [afterPhase, afterSingle, afterMulti, afterVerify, afterWrCount, withRequest_of_some request] <;> rfl
  · rw [afterPhase, afterStop, if_neg (by simp [going]), withRequest_of_some request]
    rfl
  · rw [afterPhase, afterStop, if_pos aborting]
  · rw [afterPhase, afterSingle, withRequest_of_some request]
    exact stageRca_eq_spelled address ..
  all_goals rw [afterPhase, afterMulti, withRequest_of_some request]
  · exact (if_pos (by simp [autoStopUsed, last, mmc])).trans (stageRca_eq_spelled address ..)
  · refine (if_neg ?_).trans (congrArg _ (stage_eq_spelled ..))
    rcases other with more | sd
    · simp [autoStopUsed, more]
    · simp [autoStopUsed, sd]

/-- Settles O47: by the announcement, then by the counter. -/
theorem writtenBlockCount : Obligations.WrittenBlockCount := by
  intro s q done request
  refine ⟨fun announced => ?_, fun plain => ⟨fun short => ?_, fun right => ?_⟩⟩
  all_goals refine moves_afterPhase done ?_; rw [afterPhase, afterWrCount, withRequest_of_some request]; dsimp only
  · rw [if_pos announced, stageAcmd_eq_spelled announced]
  · rw [if_neg (by simp [plain]), if_pos short]
    rfl
  · rw [if_neg (by simp [plain]), if_neg (by simp [right]), burstDone_eq_finished done.unstaged]

end Sys2Proof.Proofs
end


section
/-! What a request answers: the refusals (R441, R432, R437), the starts of MOUNT (R220, R221, R277) and of a transfer
(R296–R298), and the short operations' answers (R351–R355). -/

namespace Sys2Proof.Proofs

open Sys2Proof Sys2Proof.Machine Sys2Proof.Claims Sys2Proof.Laws

/-! ### Acceptance -/

/-- Every request but REQUEST_STOP goes through R441's and R432's acceptance, or is one that the spec gives no step. -/
theorem exec_request_accept {i : Instr} (request : isWire i = false) (notStop : i ≠ .requestStop) :
    (∃ k, ∀ s, exec i s = accept k s) ∨ ∃ why, ∀ s, exec i s = .refused why := by
  cases i
  case requestStop => exact absurd rfl notStop
  case mount | unmount | read | write | getGeometry | getMediaKind | getWp | isPresent =>
    simp only [exec, execMount, execUnmount, execRead, execWrite, execGetGeometry, execGetMediaKind, execGetWp,
      execIsPresent]
    exact .inl ⟨_, fun _ => rfl⟩
  case lockUnlock | standby | active | reservedRequest => exact .inr ⟨_, fun _ => rfl⟩
  all_goals cases request

theorem accept_busy {s : State} (active : s.h.opActive = true) (k : State → Result) :
    ∃ why, accept k s = .refused why := by
  simp only [accept, active, if_true]
  split <;> exact ⟨_, rfl⟩

theorem accept_finalized {s : State} (ended : s.finalized = true) (k : State → Result) :
    accept k s = .refused .channelFinalized := by
  simp [accept, ended]

theorem exec_refused_of_accept {i : Instr} {s : State} (request : isWire i = false) (notStop : i ≠ .requestStop)
    (turnedAway : ∀ k, ∃ why, accept k s = .refused why) : ∃ why, exec i s = .refused why := by
  obtain ⟨k, accepted⟩ | ⟨why, refused⟩ := exec_request_accept request notStop
  · rw [accepted]
    exact turnedAway k
  · exact ⟨why, refused s⟩

theorem exec_requestStop_finalized {s : State} (ended : s.finalized = true) :
    exec .requestStop s = .refused .channelFinalized := by
  simp [exec, execRequestStop, ended]

theorem exec_requestStop_busy {s : State} (live : s.finalized = false) (active : s.h.opActive = true) :
    exec .requestStop s = .next (raiseStop s) := by
  simp [exec, execRequestStop, live, active]

theorem exec_requestStop_free {s : State} (live : s.finalized = false) (idle : s.h.opActive = false) :
    exec .requestStop s = .next { raiseStop s with io.result := okResult } := by
  simp [exec, execRequestStop, live, idle]

theorem isWire_of_decode_request {t : Indices} {w : RequestWords} {i : Instr} (read : decode t (.request w) = .ok i) :
    isWire i = false := by
  cases read
  exact isWire_decodeRequest w

/-- Settles O26: a busy or finalized channel turns every request away at its acceptance; REQUEST_STOP looks at `finalized`
alone. -/
theorem overlappingRequestsRefused : Obligations.OverlappingRequestsRefused := by
  refine fun s => ⟨fun active => ⟨fun w i read notStop => ?_, fun live => ?_⟩, fun ended => ⟨fun w i read => ?_, ?_⟩⟩
  · exact exec_refused_of_accept (isWire_of_decode_request read) notStop (accept_busy active)
  · exact ⟨raiseStop s, exec_requestStop_busy live active, rfl, active⟩
  · by_cases stop : i = .requestStop
    · exact ⟨_, stop ▸ exec_requestStop_finalized ended⟩
    · exact exec_refused_of_accept (isWire_of_decode_request read) stop fun k => ⟨_, accept_finalized ended k⟩
  · intro i listed
    simp only [List.mem_cons, List.not_mem_nil, or_false] at listed
    rcases listed with rfl | rfl | rfl | rfl | rfl | rfl
    case inr.inr.inr.inr.inr => exact exec_requestStop_finalized ended
    all_goals
      simp only [exec, execUnmount, execGetGeometry, execGetMediaKind, execGetWp, execIsPresent]
      exact accept_finalized ended _

/-! ### Short operations -/

theorem readCardDetect_listed {level : Bool} {levels : List Bool} {s : State} (listed : s.env.cardDetect = level :: levels) :
    readCardDetect s = (level, { s with env.cardDetect := levels, log := calls s [.cardDetectLevel] ++ s.log }) := by
  simp [readCardDetect, listed, calls, logCall, portEvent]

theorem samplePresence_unsupported {s : State} (detects : s.cfg.cardDetectSupported = false) : samplePresence s = s := by
  simp [samplePresence, detects]

theorem samplePresence_listed {level : Bool} {levels : List Bool} {s : State} (detects : s.cfg.cardDetectSupported = true)
    (listed : s.env.cardDetect = level :: levels) :
    samplePresence s = { s with
      h.cardPresent := level, env.cardDetect := levels, log := calls s [.cardDetectLevel] ++ s.log } := by
  simp [samplePresence, detects, readCardDetect_listed listed]

theorem cardPresent_unsupported {s : State} (detects : s.cfg.cardDetectSupported = false) : cardPresent s = true := by
  simp [cardPresent, detects]

theorem cardPresent_supported {level : Bool} {s : State} (detects : s.cfg.cardDetectSupported = true)
    (sampled : s.h.cardPresent = level) : cardPresent s = level := by
  simp [cardPresent, detects, sampled]

theorem setWidth_mediaCode (k : MediaKind) : (mediaCode k).setWidth 32 = match k with
    | .unknown => 0x00#32
    | .mmc => 0x10#32
    | .sd => 0x20#32
    | .sdMmcMemory => 0x30#32 := by
  cases k <;> rfl

/-- Settles O29: a getter writes its DATA words and ends. -/
theorem gettersAnswer : Obligations.GettersAnswer := by
  rintro s ⟨live, idle⟩ quiet
  simp only [exec, execGetGeometry, execGetMediaKind, execGetWp, accept_admitted live idle, landing_none quiet,
    setWidth_mediaCode]
  exact ⟨rfl, rfl, rfl⟩

theorem exec_isPresent_of_free {s : State} (live : s.finalized = false) (idle : s.h.opActive = false) :
    exec .isPresent s = .next (isPresentEffect (landing s)) := by
  simp only [exec, execIsPresent, accept_admitted live idle]

/-- Settles O30: IS_PRESENT answers its sample, or 1 without detection; REQUEST_STOP raises the flag. -/
theorem presenceAndStop : Obligations.PresenceAndStop := by
  refine fun s live quiet => ⟨fun idle level levels detects listed => ?_, fun idle detects => ?_,
    exec_requestStop_busy live, exec_requestStop_free live⟩
  · rw [exec_isPresent_of_free live idle, landing_none quiet, isPresentEffect, samplePresence_listed detects listed,
      landing_none (by exact quiet), cardPresent_supported (by exact detects) (by rfl)]
    cases level <;> rfl
  · rw [exec_isPresent_of_free live idle, landing_none quiet, isPresentEffect, samplePresence_unsupported detects,
      landing_none quiet, cardPresent_unsupported detects]
    rfl

/-! ### READ and WRITE -/

/-- Settles O33: the length is the first thing a transfer looks at, so nothing that lands before matters. -/
theorem shortBufferRefused : Obligations.ShortBufferRefused := by
  rintro s start count len buf ⟨live, idle⟩ short
  simp only [exec, execRead, execWrite, accept_admitted live idle, transfer, if_pos short, and_self]

theorem transferError_of_met {dir : Direction} {start count : Nat} {s : State} (mounted : s.h.mountState = .mountedUnlocked)
    (running : s.h.compulsoryStop = false) (present : cardPresent s = true) (starts : start < s.h.cardSectorSize)
    (ends : start + count ≤ s.h.cardSectorSize) (writable : dir = .write → s.h.writeProtectFlags = 0#4) :
    transferError dir start count s = none := by
  have inside : outOfRange start count s.h.cardSectorSize = false := by
    simp [outOfRange, starts, ends]
  rw [transferError_of_accessible mounted running]
  simpa [rangeError, present, inside] using writable

theorem admitTransfer_empty (dir : Direction) (start buf len : Nat) (s : State) :
    admitTransfer dir start 0 buf len s = .next (finish okResult (beginOp .xCheck s)) := rfl

theorem admitTransfer_outside {dir : Direction} {start count buf len : Nat} {s : State} (some : count ≠ 0)
    (passes : 2 ^ s.cfg.bufAddrBits < buf + 512 * count) :
    admitTransfer dir start count buf len s = .refused .bufferOutsideMemory := by
  rw [admitTransfer, if_neg some, if_pos passes]

theorem admitTransfer_started {dir : Direction} {start count buf len : Nat} {s : State} (some : count ≠ 0)
    (fits : buf + 512 * count ≤ 2 ^ s.cfg.bufAddrBits) :
    admitTransfer dir start count buf len s = .next (startTransfer dir start count buf len s) := by
  rw [admitTransfer, if_neg some, if_neg fits.not_gt]

/-- Settles O32: with the preconditions met, the count and the buffer's end decide how the transfer starts. -/
theorem transferStarts : Obligations.TransferStarts := by
  intro s i dir start count len buf request free quiet room mounted running shown starts ends
  have admitted : exec i s = admitTransfer dir start.toNat count.toNat (bufferAddress s.cfg buf) len.toNat s := by
    have met := transferError_of_met (dir := dir) mounted running (cardPresent_iff.2 shown) starts ends
    rcases request with ⟨rfl, rfl⟩ | ⟨rfl, rfl, writable⟩
    · rw [exec_read_of_free free quiet, transfer_eq_elim_transferError room quiet, met nofun, Option.elim_none]
    · rw [exec_write_of_free free quiet, transfer_eq_elim_transferError room quiet, met fun _ => writable,
        Option.elim_none]
  have positive : count ≠ 0#32 → count.toNat ≠ 0 := fun nonzero zero => nonzero (BitVec.eq_of_toNat_eq zero)
  rw [admitted]
  refine ⟨?_, fun nonzero passes => admitTransfer_outside (positive nonzero) passes, fun d regs nonzero fits listed => ?_⟩
  · rintro rfl
    exact admitTransfer_empty ..
  · refine (admitTransfer_started (buf := bufferAddress s.cfg buf) (positive nonzero) fits).trans ?_
    rw [startTransfer, startClock, selectClock_fXfer_listed (by exact listed)]
    rfl

/-! ### MOUNT -/

theorem exec_mount_of_free {s : State} (free : Free s) (hostV2 : Bool) (volt : BitVec 9) :
    exec (.mount hostV2 volt) s = .next (Machine.mountEntry hostV2 volt (landing s)) := by
  obtain ⟨live, idle⟩ := free
  rw [exec, execMount, accept_admitted live idle]

/-- R221: with its divider code listed, the identification clock is selected by one divider call and one register
write. -/
theorem selectClock_fIdent_listed {d : PortWord} {regs : List PortWord} {s : State} (listed : s.env.regs = d :: regs) :
    selectClock .fIdent s = { s with
      h.clockFreq := .fIdent, env.regs := regs
      log := calls s [.write .clkCtrl (d ||| s.cfg.clkEnable), .divider s.cfg.fIdent] ++ s.log } := by
  simp [selectClock, drawReg, listed, calls, writeReg, logCall, portEvent]

theorem mountEntry_of_present {hostV2 : Bool} {volt : BitVec 9} {s t : State}
    (entered : landing (samplePresence (resetCardFields (findCard (beginOp .mReset s)))) = t)
    (present : cardPresent t = true) :
    Machine.mountEntry hostV2 volt s =
      startReset .toIfCond (startClock .fIdent { t with seq.hostV2 := hostV2, seq.volt := volt }) := by
  rw [Machine.mountEntry, entered, if_pos present]

theorem mountEntry_of_absent {hostV2 : Bool} {volt : BitVec 9} {s t : State}
    (entered : landing (samplePresence (resetCardFields (findCard (beginOp .mReset s)))) = t)
    (absent : cardPresent t = false) : Machine.mountEntry hostV2 volt s = failOp .noCard t := by
  rw [Machine.mountEntry, entered, if_neg (by simp [absent])]

/-- R129: the RESULT of an operation that found no card. -/
theorem errorResult_noCard : 0x22#32 = errorResult .noCard := rfl

/-- Settles O27: after the shared reset of the card's fields the sample, if one is taken, decides between the clock with the
first CMD0 and NoCard. -/
protected theorem mountEntry : Obligations.MountEntry := by
  intro s v2 volt free quiet
  obtain ⟨u, reset⟩ := resetCardFields_forgets (findCard (beginOp .mReset s))
  simp only [exec_mount_of_free free, landing_none quiet]
  refine ⟨u, fun d regs listed detects => ?_, fun d regs levels listed detects sample => ?_,
    fun levels detects sample => ?_⟩
  · rw [mountEntry_of_present
      (by rw [reset, samplePresence_unsupported (by exact detects), landing_none (by exact quiet)])
      (cardPresent_unsupported (by exact detects)), startClock, selectClock_fIdent_listed (by exact listed)]
    rfl
  · rw [mountEntry_of_present
      (by rw [reset, samplePresence_listed (by exact detects) (by exact sample), landing_none (by exact quiet)])
      (cardPresent_supported (by exact detects) (by rfl)), startClock, selectClock_fIdent_listed (by exact listed)]
    rfl
  · rw [mountEntry_of_absent
      (by rw [reset, samplePresence_listed (by exact detects) (by exact sample), landing_none (by exact quiet)])
      (cardPresent_supported (by exact detects) (by rfl)), errorResult_noCard]
    rfl

end Sys2Proof.Proofs
end


section
/-! Taking an error (R24, R42): what recovery's entry leaves (R400–R402), and the Port calls it makes (R402, R403). -/

namespace Sys2Proof.Proofs

open Sys2Proof Sys2Proof.Machine Sys2Proof.Claims Sys2Proof.Laws

/-! ### The state it leaves -/

theorem recover_of_selected {s : State} {rca : BitVec 16} (selected : s.seq.selected = true) (address : s.h.rca = .holding rca) :
    recover s = .next (spelled .recovery (·.cmd13) (rca ++ 0#16) false (recoveryEntry s)) := by
  have frame := recoveryEntry_frame s
  rw [recover, if_pos (by rw [frame.seq]; exact selected), stageRca_eq_spelled (by rw [frame.h]; exact address)]

theorem recover_of_unselected {s : State} (unselected : s.seq.selected = false) :
    recover s = .next (recoveryReturn (recoveryEntry s)) := by
  have frame := recoveryEntry_frame s
  rw [recover, if_neg (by rw [frame.seq]; simp [unselected])]

/-- Settles O48: recovery's entry is the frame of `recoveryEntry` around the recorded error, and the card's selection decides
between the poll and the return. -/
protected theorem recoveryEntry : Obligations.RecoveryEntry := by
  intro s e
  have frame := recoveryEntry_frame (setError e s)
  refine ⟨fun rca selected address => ?_, fun unselected => ?_⟩
  · refine ⟨_, recover_of_selected (s := setError e s) selected address,
      ⟨frame.mem, frame.card, frame.cfg, frame.inputs, frame.finalized⟩, frame.io, ?_, ?_⟩
    · simp only [spelled, frame.h]
      rfl
    · simp only [spelled, frame.seq, frame.cfg]
      rfl
  · refine ⟨_, recover_of_unselected (s := setError e s) unselected,
      ⟨(recoveryReturn_mem _).trans frame.mem, (recoveryReturn_card _).trans frame.card,
        (recoveryReturn_cfg _).trans frame.cfg, (recoveryReturn_inputs _).trans frame.inputs,
        (recoveryReturn_finalized _).trans frame.finalized⟩, ?_, ?_, ?_⟩
    · simp only [recoveryReturn_io, frame.io, frame.seq]
      rfl
    · simp only [recoveryReturn_h, frame.h, frame.seq]
      rfl
    · simp only [recoveryReturn_seq, frame.seq]
      rfl

/-! ### The bounded spin -/

/-- Each answer that shows CBSY costs the spin one of its reads (R403). -/
theorem spinWhileBusy_past_busy {busy rest : List Sts2} {s : State} (n : Nat) (listed : s.env.sts2 = busy ++ rest)
    (shown : ∀ v ∈ busy, commandBusy s.cfg.pos.sts2 v = true) :
    spinWhileBusy (busy.length + n) s = spinWhileBusy n (statusPolled busy.length rest s) := by
  induction busy generalizing s with
  | nil => rw [List.length_nil, Nat.zero_add, statusPolled_zero (later := rest) listed]
  | cons v busy ih =>
    obtain ⟨first, others⟩ := List.forall_mem_cons.1 shown
    calc spinWhileBusy ((v :: busy).length + n) s
        = spinWhileBusy (busy.length + n + 1) s := by rw [List.length_cons, Nat.add_right_comm]
      _ = spinWhileBusy (busy.length + n) (statusPolled 1 (busy ++ rest) s) := by
        simp [spinWhileBusy, readSts2_listed listed, first]
      _ = spinWhileBusy n (statusPolled busy.length rest (statusPolled 1 (busy ++ rest) s)) := ih rfl others
      _ = spinWhileBusy n (statusPolled (v :: busy).length rest s) := by
        rw [statusPolled_statusPolled, List.length_cons, Nat.add_comm 1]

theorem spinWhileBusy_exhausted {busy rest : List Sts2} {s : State} (listed : s.env.sts2 = busy ++ rest)
    (shown : ∀ v ∈ busy, commandBusy s.cfg.pos.sts2 v = true) :
    spinWhileBusy busy.length s = statusPolled busy.length rest s :=
  spinWhileBusy_past_busy 0 listed shown

theorem spinWhileBusy_settles {limit : Nat} {busy later : List Sts2} {v : Sts2} {s : State}
    (listed : s.env.sts2 = busy ++ v :: later) (shown : ∀ v ∈ busy, commandBusy s.cfg.pos.sts2 v = true)
    (settled : commandBusy s.cfg.pos.sts2 v = false) (within : busy.length < limit) :
    spinWhileBusy limit s = statusPolled (busy.length + 1) later s := by
  obtain ⟨n, rfl⟩ := Nat.exists_eq_add_of_lt within
  have last : spinWhileBusy (n + 1) (statusPolled busy.length (v :: later) s) =
      statusPolled 1 later (statusPolled busy.length (v :: later) s) := by
    rw [spinWhileBusy, readSts2_listed (s := statusPolled ..) rfl]
    exact if_neg (by simpa [statusPolled] using settled)
  rw [Nat.add_assoc, spinWhileBusy_past_busy _ listed shown, last, statusPolled_statusPolled]

/-! ### The calls -/

theorem readReg_listed {r : PortReg} {v : PortWord} {regs : List PortWord} {s : State} (listed : s.env.regs = v :: regs) :
    readReg r s = (v, { s with env.regs := regs, log := calls s [.read r] ++ s.log }) := by
  simp [readReg, drawReg, listed, calls, logCall, portEvent]

/-- R403: the calls of the abort, after `spins` reads of its spin. -/
theorem abortController_log {spins : Nat} {later : List Sts2} {clk opt : PortWord} {regs : List PortWord} {s : State}
    (spun : spinWhileBusy s.cfg.busySpinLimit (writeReg .stop s.cfg.stopAbort s) =
      statusPolled spins later (writeReg .stop s.cfg.stopAbort s))
    (listed : s.env.regs = clk :: opt :: regs) :
    (abortController s).log = calls s ([.write .option opt, .write .clkCtrl clk,
      .write .softRst s.cfg.softRstRelease, .write .softRst s.cfg.softRstAssert, .read .option, .read .clkCtrl] ++
      List.replicate spins (.read .sts2) ++ [.write .stop s.cfg.stopAbort]) ++ s.log := by
  have clock := readReg_listed (r := .clkCtrl) (s := statusPolled spins later (writeReg .stop s.cfg.stopAbort s)) listed
  rw [abortController, spun, clock, readReg_listed (v := opt) (regs := regs) rfl]
  simp [statusPolled, calls]

/-- R400–R402: the entry up to its STS2 read. -/
def entryCleared (s : State) : State :=
  setMask [] (writeReg .sts2 0#64 (writeReg .sts1 0#64
    (resetDma { s with h.phase := .recovery, seq.saved := s.h.stickyError, seq.polled := false })))

theorem recoveryEntry_log_of_idle {v : Sts2} {rest : List Sts2} {s : State} (listed : (entryCleared s).env.sts2 = v :: rest)
    (idle : commandBusy (entryCleared s).cfg.pos.sts2 v = false) :
    (recoveryEntry s).log = (statusPolled 1 rest (entryCleared s)).log := by
  rw [entryCleared] at listed idle
  rw [recoveryEntry, readSts2_listed listed, entryCleared]
  simp only [idle, Bool.false_eq_true, if_false]

theorem recoveryEntry_log_of_busy {v : Sts2} {rest : List Sts2} {s : State} (listed : (entryCleared s).env.sts2 = v :: rest)
    (busy : commandBusy (entryCleared s).cfg.pos.sts2 v = true) :
    (recoveryEntry s).log = (abortController (statusPolled 1 rest (entryCleared s))).log := by
  rw [entryCleared] at listed busy
  rw [recoveryEntry, readSts2_listed listed, entryCleared]
  simp only [busy, if_true]

section
variable (s : State)

theorem entryCleared_cfg : (entryCleared s).cfg = s.cfg := by
  simp only [entryCleared, resetDma]; split <;> rfl

theorem entryCleared_env : (entryCleared s).env = s.env := by
  simp only [entryCleared, resetDma]; split <;> rfl

/-- From the mask's write on, the calls' hidden state is that of an engine at rest with an empty mask (R402). -/
theorem calls_entryCleared (cs : List PortCall) :
    calls (entryCleared s) cs =
      calls { s with h.dmaState := if s.cfg.dmaCapable then .idle else s.h.dmaState, h.irqMask := [] } cs := by
  simp only [entryCleared, resetDma]
  cases s.cfg.dmaCapable <;> rfl

/-- R402: the calls before the STS2 read, newest first. -/
theorem entryCleared_log :
    let still := { s with h.dmaState := if s.cfg.dmaCapable then .idle else s.h.dmaState }
    (entryCleared s).log = calls { still with h.irqMask := [] } [.unlockCpu, .mask []] ++
      calls still [.lockCpu, .write .sts2 0#64, .write .sts1 0#64] ++
      calls s (if s.cfg.dmaCapable then [.dmaReset, .dmaDisable] else []) ++ s.log := by
  simp only [entryCleared, resetDma]
  cases s.cfg.dmaCapable <;> rfl

end

/-- The controller's abort has been written after an STS2 read that showed CBSY (R403). -/
def abortWritten (rest : List Sts2) (s : State) : State :=
  writeReg .stop s.cfg.stopAbort (statusPolled 1 rest (entryCleared s))

/-- The calls of an entry whose spin took `spins` reads. -/
theorem recoveryEntry_log_of_spun {spins : Nat} {v : Sts2} {rest later : List Sts2} {clk opt : PortWord}
    {regs : List PortWord} {s : State} (listed : s.env.sts2 = v :: rest) (busy : commandBusy s.cfg.pos.sts2 v = true)
    (spun : spinWhileBusy s.cfg.busySpinLimit (abortWritten rest s) = statusPolled spins later (abortWritten rest s))
    (words : s.env.regs = clk :: opt :: regs) :
    (recoveryEntry s).log = calls (entryCleared s) ([.write .option opt, .write .clkCtrl clk,
      .write .softRst s.cfg.softRstRelease, .write .softRst s.cfg.softRstAssert, .read .option, .read .clkCtrl] ++
      List.replicate spins (.read .sts2) ++ [.write .stop s.cfg.stopAbort]) ++
      (calls (entryCleared s) [.read .sts2] ++ (entryCleared s).log) := by
  have cfg : (statusPolled 1 rest (entryCleared s)).cfg = s.cfg := entryCleared_cfg s
  rw [recoveryEntry_log_of_busy (by rw [entryCleared_env]; exact listed) (by rw [entryCleared_cfg]; exact busy),
    abortController_log (by rw [cfg]; exact spun) (by rw [statusPolled, entryCleared_env]; exact words), cfg]
  rfl

/-- Settles O49: the entry's log is that of the cleared state, its one STS2 read, and, where that shows CBSY, the abort's
calls, with as many reads as the listed answers make the spin take. -/
theorem recoveryPortCalls : Obligations.RecoveryPortCalls := by
  intro s v rest listed
  have answer : (entryCleared s).env.sts2 = v :: rest := by rw [entryCleared_env]; exact listed
  refine ⟨by rw [(recoveryEntry_frame s).h], fun idle => ?_, fun busy later clk opt regs first shown words => ?_⟩
  · rw [recoveryEntry_log_of_idle answer (by rw [entryCleared_cfg]; exact idle)]
    simp only [statusPolled, calls_entryCleared, entryCleared_log]
    rfl
  · have shown' : ∀ x ∈ busy, commandBusy (abortWritten rest s).cfg.pos.sts2 x = true := by
      rw [abortWritten, writeReg_cfg, statusPolled, entryCleared_cfg]
      exact shown
    refine ⟨fun w split settled within => ?_, fun split limit => ?_⟩
    · rw [recoveryEntry_log_of_spun listed first (spinWhileBusy_settles split shown'
        (by rw [abortWritten, writeReg_cfg, statusPolled, entryCleared_cfg]; exact settled) within) words,
        calls_entryCleared, calls_entryCleared, entryCleared_log]
      rfl
    · rw [recoveryEntry_log_of_spun listed first (limit ▸ spinWhileBusy_exhausted split shown') words,
        calls_entryCleared, calls_entryCleared, entryCleared_log]
      rfl

end Sys2Proof.Proofs
end


section
/-! What a failing burst, and one that completes in doubt, can change (R96, R107, R391, R410, R436, R437, R443): the draws
and the bytes they are, in the burst's sectors and its part of the buffer. -/

namespace Sys2Proof.Proofs

open Sys2Proof Sys2Proof.Machine Sys2Proof.Claims Sys2Proof.Laws

/-- `t` is `s` but for the two memories and the draws, and its memories are canonical where those of `s` are. -/
structure Spoiled (s t : State) : Prop where
  only : t = { s with mem := t.mem, card := t.card, env.bytes := t.env.bytes, env.draws := t.env.draws }
  memWf : s.mem.wf = true → t.mem.wf = true
  cardWf : s.card.wf = true → t.card.wf = true

theorem Spoiled.refl (s : State) : Spoiled s s := ⟨rfl, id, id⟩

theorem Spoiled.trans {s t u : State} (a : Spoiled s t) (b : Spoiled t u) : Spoiled s u := by
  refine ⟨?_, fun wf => b.memWf (a.memWf wf), fun wf => b.cardWf (a.cardWf wf)⟩
  calc u = { t with mem := u.mem, card := u.card, env.bytes := u.env.bytes, env.draws := u.env.draws } := b.only
    _ = { s with mem := u.mem, card := u.card, env.bytes := u.env.bytes, env.draws := u.env.draws } := by rw [a.only]

/-! ### Buffer ranges -/

section
variable (a n : Nat) (s : State)

theorem spoilBuffer_eq : spoilBuffer a n s = { s with
    mem := s.mem.writeBytes a (drawBytes n s).1
    env.bytes := (drawBytes n s).2.env.bytes, env.draws := (drawBytes n s).2.env.draws } := by
  rw [spoilBuffer, drawBytes_env]

theorem spoilBuffer_spoiled : Spoiled s (spoilBuffer a n s) := by
  rw [spoilBuffer_eq]
  exact ⟨rfl, writeBytes_wf _ _ _, id⟩

theorem spoilBuffer_card : (spoilBuffer a n s).card = s.card := by rw [spoilBuffer_eq]

theorem spoilBuffer_read_outside {x : Nat} (outside : x < a ∨ a + n ≤ x) :
    (spoilBuffer a n s).mem.read x = s.mem.read x := by
  rw [spoilBuffer_eq]
  exact writeBytes_read_outside _ _ _ _ (by rwa [drawBytes_length])

end

/-- Where enough bytes are listed they are what the buffer's range holds. -/
theorem spoilBuffer_listed {bytes rest : List Byte} {s : State} (a : Nat) (listed : s.env.bytes = bytes ++ rest) :
    spoilBuffer a bytes.length s = { s with mem := s.mem.writeBytes a bytes, env.bytes := rest } := by
  rw [spoilBuffer, drawBytes_listed listed]

/-! ### Card sectors -/

theorem spoilSector_of_inside {x : Nat} {s : State} (inside : x < s.h.cardSectorSize) : spoilSector x s = { s with
    card := s.card.writeBytes (x * 512) (drawBytes 512 s).1
    env.bytes := (drawBytes 512 s).2.env.bytes, env.draws := (drawBytes 512 s).2.env.draws } := by
  rw [spoilSector, if_pos inside]
  dsimp only
  rw [drawBytes_env]

theorem spoilSector_of_outside {x : Nat} {s : State} (outside : ¬ x < s.h.cardSectorSize) : spoilSector x s = s := by
  rw [spoilSector, if_neg outside]

theorem spoilSector_spoiled (x : Nat) (s : State) : Spoiled s (spoilSector x s) := by
  by_cases inside : x < s.h.cardSectorSize
  · rw [spoilSector_of_inside inside]
    exact ⟨rfl, id, writeBytes_wf _ _ _⟩
  · rw [spoilSector_of_outside inside]
    exact .refl s

theorem spoilSector_mem (x : Nat) (s : State) : (spoilSector x s).mem = s.mem := by
  by_cases inside : x < s.h.cardSectorSize
  · rw [spoilSector_of_inside inside]
  · rw [spoilSector_of_outside inside]

theorem spoilSector_read_outside {x a : Nat} (s : State) (outside : a < x * 512 ∨ (x + 1) * 512 ≤ a) :
    (spoilSector x s).card.read a = s.card.read a := by
  by_cases inside : x < s.h.cardSectorSize
  · rw [spoilSector_of_inside inside]
    exact writeBytes_read_outside _ _ _ _ (by rw [drawBytes_length]; omega)
  · rw [spoilSector_of_outside inside]

theorem spoilSector_listed {x : Nat} {bytes rest : List Byte} {s : State} (inside : x < s.h.cardSectorSize)
    (length : bytes.length = 512) (listed : s.env.bytes = bytes ++ rest) :
    spoilSector x s = { s with card := s.card.writeBytes (x * 512) bytes, env.bytes := rest } := by
  rw [spoilSector, if_pos inside, ← length, drawBytes_listed listed]

/-- Any bytes in `n` sectors from `first` on. -/
def spoilRun (first n : Nat) (s : State) : State := (List.range' first n).foldl (fun t x => spoilSector x t) s

theorem spoilRun_zero (first : Nat) (s : State) : spoilRun first 0 s = s := rfl

theorem spoilRun_succ (first n : Nat) (s : State) :
    spoilRun first (n + 1) s = spoilRun (first + 1) n (spoilSector first s) := rfl

theorem spoilSectors_eq_spoilRun (s : State) : spoilSectors s = spoilRun s.seq.burst.first s.seq.burst.n s := by
  rw [spoilSectors, burstSectors, List.range_eq_range', List.map_add_range', Nat.add_zero, spoilRun]

theorem spoilRun_spoiled (first n : Nat) (s : State) : Spoiled s (spoilRun first n s) := by
  induction n generalizing first s with
  | zero => exact .refl s
  | succ n ih => exact (spoilSector_spoiled first s).trans (ih ..)

theorem spoilRun_mem (first n : Nat) (s : State) : (spoilRun first n s).mem = s.mem := by
  induction n generalizing first s with
  | zero => rfl
  | succ n ih => exact (ih ..).trans (spoilSector_mem first s)

theorem spoilRun_read_outside {first n a : Nat} (s : State) (outside : a < first * 512 ∨ (first + n) * 512 ≤ a) :
    (spoilRun first n s).card.read a = s.card.read a := by
  induction n generalizing first s with
  | zero => rfl
  | succ n ih =>
    have later : a < (first + 1) * 512 ∨ (first + 1 + n) * 512 ≤ a :=
      outside.imp (fun below => below.trans_le (Nat.mul_le_mul_right 512 first.le_succ)) fun above => by
        rwa [Nat.add_assoc, Nat.add_comm 1]
    have own : a < first * 512 ∨ (first + 1) * 512 ≤ a :=
      outside.imp_right fun above => (Nat.mul_le_mul_right 512 (by omega)).trans above
    rw [spoilRun_succ, ih _ later, spoilSector_read_outside s own]

/-- Where enough bytes are listed they are, in order, what the sectors hold, and no free value is drawn. -/
theorem spoilRun_listed {first n : Nat} {bytes rest : List Byte} {s : State} (inside : first + n ≤ s.h.cardSectorSize)
    (length : bytes.length = 512 * n) (listed : s.env.bytes = bytes ++ rest) :
    (spoilRun first n s).env = { s.env with bytes := rest } ∧
      ∀ k (h : k < bytes.length), (spoilRun first n s).card.read (first * 512 + k) = bytes[k] := by
  induction n generalizing first bytes s with
  | zero =>
    obtain rfl : bytes = [] := List.length_eq_zero_iff.1 (by omega)
    exact ⟨by rw [spoilRun_zero, ← List.nil_append rest, ← listed], nofun⟩
  | succ n ih =>
    have start : (bytes.take 512).length = 512 := by rw [List.length_take]; omega
    have one := spoilSector_listed (x := first) (s := s) (rest := bytes.drop 512 ++ rest) (by omega) start
      (by rw [listed, ← List.append_assoc, List.take_append_drop])
    obtain ⟨env, holds⟩ := ih (first := first + 1) (bytes := bytes.drop 512) (s := spoilSector first s)
      (by rw [spoilSector_h]; omega) (by rw [List.length_drop]; omega) (by rw [one])
    rw [spoilRun_succ]
    refine ⟨by rw [env, one], fun k h => ?_⟩
    by_cases early : k < 512
    · rw [spoilRun_read_outside (spoilSector first s) (by omega), one, writeBytes_read_inside _ _ _ _ (by omega),
        List.getElem_take]
    · obtain ⟨j, rfl⟩ := Nat.exists_eq_add_of_le (Nat.not_lt.1 early)
      rw [← Nat.add_assoc, ← Nat.succ_mul, holds j (by rw [List.length_drop]; omega), List.getElem_drop]

/-! ### Bursts -/

/-- Where the damage of a failing read burst begins in the buffer. -/
def damagedFrom (s : State) : Nat := s.seq.burst.buf + 512 * keptSectors s

section
variable {q : TransferRequest} {s : State}

theorem spoilBurst_of_read (dir : q.dir = .read) : spoilBurst q s =
    spoilBuffer (damagedFrom s) (q.buf + 512 * q.count - damagedFrom s) (spoilSectors s) := by
  rw [spoilBurst, dir]
  rfl

theorem spoilBurst_of_write (dir : q.dir = .write) : spoilBurst q s = spoilSectors s := by
  rw [spoilBurst, dir]

theorem settleBurst_of_sure (sure : s.seq.doubtful = false) : settleBurst q s = s := by
  simp [settleBurst, sure]

end

theorem spoilSectors_spoiled (s : State) : Spoiled s (spoilSectors s) := by
  rw [spoilSectors_eq_spoilRun]
  exact spoilRun_spoiled ..

theorem spoilSectors_mem (s : State) : (spoilSectors s).mem = s.mem := by
  rw [spoilSectors_eq_spoilRun]
  exact spoilRun_mem ..

theorem spoilSectors_read_outside {a : Nat} (s : State)
    (outside : a < s.seq.burst.first * 512 ∨ (s.seq.burst.first + s.seq.burst.n) * 512 ≤ a) :
    (spoilSectors s).card.read a = s.card.read a := by
  rw [spoilSectors_eq_spoilRun]
  exact spoilRun_read_outside s outside

theorem spoilBurst_spoiled (q : TransferRequest) (s : State) : Spoiled s (spoilBurst q s) := by
  cases dir : q.dir with
  | read => rw [spoilBurst_of_read dir]; exact (spoilSectors_spoiled s).trans (spoilBuffer_spoiled ..)
  | write => rw [spoilBurst_of_write dir]; exact spoilSectors_spoiled s

theorem spoilBurst_card (q : TransferRequest) (s : State) : (spoilBurst q s).card = (spoilSectors s).card := by
  cases dir : q.dir with
  | read => rw [spoilBurst_of_read dir, spoilBuffer_card]
  | write => rw [spoilBurst_of_write dir]

theorem spoilBurst_read_outside {q : TransferRequest} {a : Nat} (s : State)
    (outside : a < damagedFrom s ∨ (q.buf + 512 * q.count ≤ a ∧ damagedFrom s ≤ a)) :
    (spoilBurst q s).mem.read a = s.mem.read a := by
  cases dir : q.dir with
  | read => rw [spoilBurst_of_read dir, spoilBuffer_read_outside _ _ _ (by omega), spoilSectors_mem]
  | write => rw [spoilBurst_of_write dir, spoilSectors_mem]

theorem settleBurst_spoiled (q : TransferRequest) (s : State) : Spoiled s (settleBurst q s) := by
  rcases settleBurst_cases q s with sure | ⟨-, spoils⟩ | ⟨-, spoils⟩
  · rw [sure]; exact .refl s
  · rw [spoils]; exact spoilBuffer_spoiled ..
  · rw [spoils]; exact spoilSectors_spoiled s

theorem settleBurst_card_read_outside {q : TransferRequest} {a : Nat} (s : State)
    (outside : a < s.seq.burst.first * 512 ∨ (s.seq.burst.first + s.seq.burst.n) * 512 ≤ a) :
    (settleBurst q s).card.read a = s.card.read a := by
  rcases settleBurst_cases q s with sure | ⟨-, spoils⟩ | ⟨-, spoils⟩
  · rw [sure]
  · rw [spoils, spoilBuffer_card]
  · rw [spoils]; exact spoilSectors_read_outside s outside

theorem settleBurst_mem_read_outside {q : TransferRequest} {a : Nat} (s : State)
    (outside : a < s.seq.burst.buf ∨ s.seq.burst.buf + 512 * s.seq.burst.n ≤ a) :
    (settleBurst q s).mem.read a = s.mem.read a := by
  rcases settleBurst_cases q s with sure | ⟨-, spoils⟩ | ⟨-, spoils⟩
  · rw [sure]
  · rw [spoils]; exact spoilBuffer_read_outside _ _ s outside
  · rw [spoils, spoilSectors_mem]

theorem settleBurst_mem_of_write {q : TransferRequest} (s : State) (dir : q.dir = .write) :
    (settleBurst q s).mem = s.mem := by
  rcases settleBurst_cases q s with sure | ⟨read, -⟩ | ⟨-, spoils⟩
  · rw [sure]
  · rw [dir] at read; cases read
  · rw [spoils, spoilSectors_mem]

theorem settleBurst_card_of_read {q : TransferRequest} (s : State) (dir : q.dir = .read) :
    (settleBurst q s).card = s.card := by
  rcases settleBurst_cases q s with sure | ⟨-, spoils⟩ | ⟨write, -⟩
  · rw [sure]
  · rw [spoils, spoilBuffer_card]
  · rw [dir] at write; cases write

/-- R96, R107: where enough bytes are listed for a failing read burst, the sectors hold the first of them and the buffer's
range the next. -/
theorem spoilBurst_listed {q : TransferRequest} {s : State} {sectors bytes rest : List Byte} (dir : q.dir = .read)
    (inside : s.seq.burst.first + s.seq.burst.n ≤ s.h.cardSectorSize) (listed : s.env.bytes = sectors ++ bytes ++ rest)
    (covers : sectors.length = 512 * s.seq.burst.n) (fills : bytes.length = q.buf + 512 * q.count - damagedFrom s) :
    (spoilBurst q s).env.bytes = rest ∧ (spoilBurst q s).env.draws = s.env.draws ∧
    (∀ k (h : k < sectors.length), (spoilBurst q s).card.read (s.seq.burst.first * 512 + k) = sectors[k]) ∧
    ∀ k (h : k < bytes.length), (spoilBurst q s).mem.read (damagedFrom s + k) = bytes[k] := by
  obtain ⟨env, holds⟩ := spoilRun_listed (rest := bytes ++ rest) inside covers (by rw [listed, List.append_assoc])
  rw [← spoilSectors_eq_spoilRun] at env holds
  have buffer := spoilBuffer_listed (s := spoilSectors s) (damagedFrom s) (by rw [env])
  rw [fills, ← spoilBurst_of_read dir] at buffer
  rw [buffer]
  exact ⟨rfl, by rw [env], holds, fun k h => writeBytes_read_inside _ _ _ _ h⟩

/-- Settles O25: the parts are the rules about `spoilBurst` and `settleBurst` above. -/
theorem burstDamageIsBounded : Obligations.BurstDamageIsBounded := by
  intro q s
  have failing := spoilBurst_spoiled q s
  have settled := settleBurst_spoiled q s
  refine ⟨⟨failing.only, failing.memWf, failing.cardWf, fun a outside => ?_, fun dir => ?_⟩,
    fun a outside => spoilBurst_read_outside s outside,
    ⟨settled.only, settled.memWf, settled.cardWf, fun a outside => settleBurst_card_read_outside s outside,
      settleBurst_mem_of_write s⟩,
    fun a outside => settleBurst_mem_read_outside s outside, settleBurst_card_of_read s, settleBurst_of_sure,
    fun sectors bytes rest dir inside listed covers fills => spoilBurst_listed dir inside listed covers fills⟩
  · rw [spoilBurst_card]
    exact spoilSectors_read_outside s outside
  · rw [spoilBurst_of_write dir, spoilSectors_mem]

end Sys2Proof.Proofs
end


section
/-! What one step runs (R11, R72, R120), and what an arrival does: driver init and finalize (R430–R432), and the acts on a
running transfer (R436, R437, R443). -/

namespace Sys2Proof.Proofs

open Sys2Proof Sys2Proof.Machine Sys2Proof.Claims Sys2Proof.Laws

/-! ### The step -/

section
variable {s : State} (legal : configured s = true)
include legal

theorem step_of_request {w : RequestWords} {rest : List (Option Input)} {i : Instr}
    (listed : s.inputs = some (.request w) :: rest) (read : decode s.cfg.index (.request w) = .ok i) :
    step s = exec i (latch w { s with inputs := rest }) := by
  have code : nextCode s = some (.request w) := by rw [nextCode, listed]
  have fetch : fetched s = latch w { s with inputs := rest } := by rw [fetched, listed]
  simp only [step, legal, code, read, fetch, if_true]

theorem step_of_arrival {act : Input} {rest : List (Option Input)} (noRequest : ∀ w, act ≠ .request w)
    (listed : s.inputs = some act :: rest) : step s = arrive act { s with inputs := rest } := by
  have code : nextCode s = none := by
    rw [nextCode, listed]
    cases act with
    | request w => exact absurd rfl (noRequest w)
    | _ => rfl
  have fetch : fetched s = { s with inputs := rest } := by
    rw [fetched, listed]
    cases act with
    | request w => exact absurd rfl (noRequest w)
    | _ => rfl
  have alone : stepAlone s = arrive act (fetched s) := by rw [stepAlone, listed]
  simp only [step, legal, code, alone, fetch, if_true]

end

theorem moves_of_staged {s : State} (legal : configured s = true) {f : Frame} {i : Instr} (staged : s.seq.staged = some f)
    (read : decode s.cfg.index (.wire s.seq.app f) = .ok i) : Moves s (exec i s) := by
  have legal' : configured { s with inputs := none :: s.inputs } = true := legal
  refine ⟨fun quiet => ?_, ?_⟩
  · simp [step, legal, nextCode, quiet, staged, read, fetched]
  · simp [step, legal', nextCode, staged, read, fetched]

theorem moves_of_idle {s : State} (legal : configured s = true) (unstaged : s.seq.staged = none)
    (idle : s.h.opActive = false) : Moves s (.next s) := by
  have legal' : configured { s with inputs := none :: s.inputs } = true := legal
  refine ⟨fun quiet => ?_, ?_⟩
  · simp [step, legal, nextCode, quiet, unstaged, stepAlone, idle, fetched]
  · simp [step, legal', nextCode, unstaged, stepAlone, idle, fetched]

/-- Settles O57: the input slot decides what a step fetches, then the staged frame. -/
theorem stepRunsDecodedInstruction : Obligations.StepRunsDecodedInstruction := fun s =>
  ⟨fun illegal => by simp [step, illegal], fun legal =>
    ⟨fun w rest i listed read => (step_of_request legal listed read).trans (congrArg (exec i) rfl),
      fun _ _ staged read => moves_of_staged legal staged read,
      fun unstaged active => moves_advance legal active unstaged, moves_of_idle legal⟩⟩

/-! ### Driver init and finalize -/

theorem finalize_eq_forgotten (s : State) : ∃ u : Handle, finalize s = { s with
    h := { cardForgotten u s.h with clockOn := false }, finalized := true
    log := calls s [.write .clkCtrl s.cfg.clkDisabled, .busSelect .one] ++ s.log } := by
  obtain ⟨u, reset⟩ := resetCardFields_forgets s
  exact ⟨u, by rw [finalize, reset]; rfl⟩

theorem driverInit_of_unsupported {s : State} (detects : s.cfg.cardDetectSupported = false) : driverInit s = { s with
    h := { Handle.reset s.cfg true with cardPresent := true }, io := RequestIf.reset, seq := Sequencer.reset
    finalized := false } := by
  have present : Handle.reset s.cfg true = { Handle.reset s.cfg true with cardPresent := true } := by
    simp [Handle.reset]
  rw [driverInit, samplePresence_unsupported (by exact detects), ← present]

theorem driverInit_of_sample {level : Bool} {levels : List Bool} {s : State} (detects : s.cfg.cardDetectSupported = true)
    (listed : s.env.cardDetect = level :: levels) : driverInit s = { s with
      h := { Handle.reset s.cfg true with cardPresent := level }, io := RequestIf.reset, seq := Sequencer.reset
      finalized := false, env.cardDetect := levels
      log := calls { s with h := Handle.reset s.cfg true } [.cardDetectLevel] ++ s.log } := by
  rw [driverInit, samplePresence_listed (by exact detects) (by exact listed)]
  rfl

/-- Settles O56: both are turned away while an operation runs; otherwise finalize is UNMOUNT's reset, and driver init the
reset values with the sampled level. -/
theorem driverInitResets : Obligations.DriverInitResets := by
  refine ⟨fun s rest legal listed => ?_, fun s rest legal listed => ?_⟩
  · rw [step_of_arrival legal (by nofun) listed]
    refine ⟨fun active => if_pos active, fun idle => ?_⟩
    obtain ⟨u, ends⟩ := finalize_eq_forgotten { s with inputs := rest }
    refine ⟨u, (if_neg (by simp [idle])).trans ?_⟩
    rw [ends]
    rfl
  · rw [step_of_arrival legal (by nofun) listed]
    refine ⟨fun active => if_pos active, fun level levels idle sample => ?_⟩
    have runs : arrive .driverInit { s with inputs := rest } = .next (driverInit { s with inputs := rest }) :=
      if_neg (by simp [idle])
    cases detects : s.cfg.cardDetectSupported with
    | false =>
      simp only [detects, Bool.false_eq_true, if_false] at sample
      subst sample
      refine ⟨_, Handle.reset s.cfg true, runs, ?_⟩
      rw [driverInit_of_unsupported (by exact detects)]
      exact ⟨rfl, rfl, rfl, rfl, rfl, rfl, rfl⟩
    | true =>
      simp only [detects, if_true] at sample
      refine ⟨_, Handle.reset s.cfg true, runs, ?_⟩
      rw [driverInit_of_sample (by exact detects) (by exact sample)]
      exact ⟨rfl, rfl, rfl, rfl, rfl, rfl, rfl⟩

/-! ### Acts on a running transfer -/

section
variable {s : State} {a : Nat}

theorem bufferHolding_eq_none (outside : ∀ q, s.h.req = some q → a < q.buf ∨ q.buf + 512 * q.count ≤ a) :
    bufferHolding s a = none := by
  rw [bufferHolding, Option.filter_eq_none_iff]
  intro q running inside
  have := outside q running
  simp only [Bool.and_eq_true, decide_eq_true_eq] at inside
  omega

theorem bufferHolding_eq_some {q : TransferRequest} (running : s.h.req = some q) (above : q.buf ≤ a)
    (below : a < q.buf + 512 * q.count) : bufferHolding s a = some q := by
  simp [bufferHolding, running, above, below]

end

/-- R437: a touch of the buffer writes no byte outside it, and marks the transfer. -/
theorem touchBuffer_eq (q : TransferRequest) (s : State) : touchBuffer q s = { s with
    mem := (touchBuffer q s).mem
    env.bytes := (touchBuffer q s).env.bytes, env.draws := (touchBuffer q s).env.draws
    seq.touched := true, seq.doubtful := s.seq.doubtful || decide (q.dir = .read) } := by
  simp only [touchBuffer, spoilBuffer_eq]

theorem touchBuffer_read_outside {q : TransferRequest} {x : Nat} (s : State)
    (outside : x < q.buf ∨ q.buf + 512 * q.count ≤ x) : (touchBuffer q s).mem.read x = s.mem.read x :=
  spoilBuffer_read_outside q.buf (512 * q.count) s outside

theorem writeBytes_single_read (m : Memory) (a : Nat) (b : Byte) (x : Nat) :
    (m.writeBytes a [b]).read x = if x = a then b else m.read x := by
  split
  case isTrue same =>
    subst same
    exact writeBytes_read_inside m x [b] 0 (by simp)
  case isFalse other => exact writeBytes_read_outside m a [b] x (by simp; omega)

/-- Settles O55: where the address lies decides what a store or a load does; the other acts are one update each. -/
theorem actsOnTransfers : Obligations.ActsOnTransfers := by
  intro s act rest legal listed
  have arrival := fun noRequest => step_of_arrival legal (act := act) noRequest listed
  refine ⟨fun addr b stored => ⟨fun outside => ⟨?_, ?_⟩, fun q running above below => ?_⟩, ?_, ?_, ?_⟩
  · rintro rfl
    rw [arrival nofun, arrive, hostLoad, bufferHolding_eq_none (by exact outside)]
  · rintro rfl
    refine ⟨_, (arrival nofun).trans (by rw [arrive, hostStore, bufferHolding_eq_none (by exact outside)]), rfl, ?_⟩
    exact writeBytes_single_read s.mem _ b
  · have touches : step s = .next (touchBuffer q { s with inputs := rest }) := by
      have held := bufferHolding_eq_some (s := { s with inputs := rest }) running above below
      rcases stored with rfl | rfl
      · rw [arrival nofun, arrive, hostStore]
        simp only [bufferAddress, held]
      · rw [arrival nofun, arrive, hostLoad]
        simp only [bufferAddress, held]
    exact ⟨_, touches, fun x outside => touchBuffer_read_outside _ outside, touchBuffer_eq q _⟩
  · rintro busy rfl
    exact arrival nofun
  · rintro rfl
    exact arrival nofun
  · rintro rfl
    exact arrival nofun

end Sys2Proof.Proofs
end


section
/-! What lands at any time (R391, R392, R355, R439, R451): between steps, around a wire command, and at the points of a
request. -/

namespace Sys2Proof.Proofs

open Sys2Proof Sys2Proof.Machine Sys2Proof.Claims Sys2Proof.Laws

/-! ### Between steps -/

theorem callback_of_insert {s : State} (detects : s.cfg.cardDetectSupported = true)
    (known : s.cfg.channel < s.cfg.nChannels) :
    callback .cardInsert s.cfg.channel s = { s with h.cardPresent := true } :=
  if_pos ⟨detects, rfl, known⟩

theorem callback_of_remove {s : State} (detects : s.cfg.cardDetectSupported = true)
    (known : s.cfg.channel < s.cfg.nChannels) : callback .cardRemove s.cfg.channel s = { s with
      h.cardPresent := false, h.compulsoryStop := true, env.cardLost := true, seq.doubtful := true } :=
  if_pos ⟨detects, rfl, known⟩

theorem callback_of_other {ev : EventClass} {channel : Nat} {s : State}
    (other : s.cfg.cardDetectSupported = false ∨ channel ≠ s.cfg.channel ∨ s.cfg.nChannels ≤ channel ∨
      (ev ≠ .cardInsert ∧ ev ≠ .cardRemove)) : callback ev channel s = s := by
  unfold callback
  split
  case isFalse => rfl
  case isTrue seen =>
    obtain ⟨detects, rfl, known⟩ := seen
    obtain ⟨noInsert, noRemove⟩ : ev ≠ .cardInsert ∧ ev ≠ .cardRemove := by
      simpa [detects, known.not_ge] using other
    cases ev with
    | cardInsert => exact absurd rfl noInsert
    | cardRemove => exact absurd rfl noRemove
    | _ => rfl

theorem channel_lt_of_configured {s : State} (legal : configured s = true) : s.cfg.channel < s.cfg.nChannels := by
  simp only [configured, Config.wf, Bool.and_eq_true, decide_eq_true_eq] at legal
  tauto

/-! ### Around a wire command -/

theorem followUp_blind (i : Instr) : Blind (followUp i) := by
  have takes := takeR1_blind
  cases i with
  | cmd1 | acmd41 | cmd3Sd | cmd8 => exact ⟨fun b s => by
      simp only [followUp, respR3, respR6, respR7, readRsp_blind.eq, mark_cfg]; cases b <;> rfl⟩
  | cmd2 | cmd9 => exact ⟨fun b s => by
      simp only [followUp, respCid, respCsd, readImage_blind.eq]; cases b <;> rfl⟩
  | cmd3Mmc | acmd6 =>
    simp only [followUp]
    refine (respR1_blind 0#32).andThen ?_
    exact ⟨fun b s => by cases b <;> rfl⟩
  | cmd7 => exact ⟨fun b s => by simp only [followUp, mark_cfg, (respR1_blind _).eq]⟩
  | cmd12 | cmd13 => exact ⟨fun b s => by simp only [followUp, takes.eq]⟩
  | cmd16 | cmd55 | acmd42 => exact respR1_blind _
  | acmd13 | acmd22 | acmd51 =>
    refine (respR1_blind 0#32).andThen (readRegData_blind _ _ fun bytes => ?_)
    exact ⟨fun b s => by cases b <;> rfl⟩
  | _ => exact ⟨fun b s => by cases b <;> rfl⟩

theorem isData_mark (i : Instr) (b : Mark) (s : State) : isData i (mark b s) = isData i s := by
  cases i with
  | cmd18 | cmd25 => simp only [isData, mark_burst]
  | _ => rfl

/-- R439, R451: a wire command after what lands is what lands after the command. -/
theorem exec_mark {i : Instr} (wire : isWire i = true) (b : Mark) (s : State) :
    exec i (mark b s) = markAfter b (exec i s) := by
  cases data : isData i s with
  | none =>
    obtain ⟨cmd, arg, kind, tc, issues⟩ := wireIssue_of_isWire wire
    rw [exec_of_issue issues data, exec_of_issue issues (by rw [isData_mark, data])]
    exact command_mark ((issue_blind cmd arg kind tc).andThen (followUp_blind i)) b s
  | some d =>
    obtain ⟨cmd, issues, ran⟩ := exec_of_isData data
    obtain ⟨cmd', issues', ran'⟩ := exec_of_isData (s := mark b s) (by rw [isData_mark, data])
    obtain rfl : cmd' = cmd := by rw [issues'] at issues; cases issues; rfl
    rw [ran, ran']
    exact dataCommand_mark ..

/-- The same for every act: what is not a mark changes nothing. -/
theorem exec_midway {i : Instr} (wire : isWire i = true) (m : Midway) (s : State) :
    (∀ t, exec i s = .next t → exec i (midway m s) = .next (midway m t)) ∧
    (∀ f, exec i s = .fault f → exec i (midway m s) = .fault f) := by
  have cfg : ∀ t, exec i s = .next t → t.cfg = s.cfg := fun t next => by
    obtain ⟨a, r, rfl, frame⟩ := exec_wire_frame wire next
    exact frame.cfg
  rcases midway_cases m s.cfg with nothing | ⟨b, marks⟩
  · rw [nothing s rfl]
    exact ⟨fun t next => by rw [next, nothing t (cfg t next)], fun f stops => stops⟩
  · rw [marks s rfl, exec_mark wire]
    exact ⟨fun t next => by rw [next, marks t (cfg t next)]; rfl, fun f stops => by rw [stops]; rfl⟩

/-! ### At a request's points -/

theorem landing_listed {s : State} {acts : List Midway} {later : List (List Midway)} (listed : s.env.during = acts :: later) :
    landing s = acts.foldl (fun t m => midway m t) { s with env.during := later } := by
  rw [landing, listed]

theorem midway_during (m : Midway) (d : List (List Midway)) (s : State) :
    midway m { s with env.during := d } = { midway m s with env.during := d } := by
  cases m with
  | stop => rfl
  | callback ev channel =>
    simp only [midway, callback]
    split
    · cases ev <;> rfl
    · rfl

theorem foldl_midway_during (acts : List Midway) (d : List (List Midway)) (s : State) :
    acts.foldl (fun t m => midway m t) { s with env.during := d } =
      { acts.foldl (fun t m => midway m t) s with env.during := d } := by
  induction acts generalizing s with
  | nil => rfl
  | cons m acts ih => rw [List.foldl_cons, midway_during, ih, List.foldl_cons]

theorem foldl_midway_frame (acts : List Midway) (s : State) : MidwayFrame s (acts.foldl (fun t m => midway m t) s) := by
  induction acts generalizing s with
  | nil => exact .refl s
  | cons m acts ih => exact (midway_frame m s).trans (ih _)

/-- What is listed at a request's acceptance may as well have landed before it. -/
theorem accept_landed (k : State → Result) (s : State) (acts : List Midway) (later : List (List Midway)) :
    accept k { s with env.during := acts :: later } =
      accept k { acts.foldl (fun t m => midway m t) s with env.during := [] :: later } := by
  have frame := foldl_midway_frame acts s
  have lands : landing { s with env.during := acts :: later } =
      landing { acts.foldl (fun t m => midway m t) s with env.during := [] :: later } := by
    rw [landing_listed (acts := acts) (later := later) rfl, landing_listed (acts := []) (later := later) rfl,
      List.foldl_nil]
    exact foldl_midway_during acts later s
  have active : (acts.foldl (fun t m => midway m t) s).h.opActive = s.h.opActive := by rw [frame.h]
  simp only [accept, lands, frame.finalized, active]

theorem landing_nothing {s : State} {later : List (List Midway)} (listed : s.env.during = [] :: later) :
    landing s = { s with env.during := later } := landing_listed listed

theorem landing_removal {s : State} {later : List (List Midway)} (detects : s.cfg.cardDetectSupported = true)
    (known : s.cfg.channel < s.cfg.nChannels)
    (listed : s.env.during = [.callback .cardRemove s.cfg.channel] :: later) : landing s = { s with
      h.cardPresent := false, h.compulsoryStop := true, env.cardLost := true, env.during := later, seq.doubtful := true } := by
  rw [landing_listed listed]
  exact callback_of_remove (s := { s with env.during := later }) detects known

theorem landing_stop {s : State} {a0 a1 a2 a3 a4 : Word} {later : List (List Midway)}
    (listed : s.env.during = [.stop a0 a1 a2 a3 a4] :: later) :
    landing s = raiseStop (latch ⟨9#32, a0, a1, a2, a3, a4⟩ { s with env.during := later }) := landing_listed listed

/-! ### READ and WRITE -/

theorem exec_transfer_of_free {s : State} (free : Free s) {i : Instr} {start count len : Word} {buf : BitVec 64}
    (request : i = .read start count buf len ∨ i = .write start count buf len) : ∃ dir, exec i s =
      transfer dir start.toNat count.toNat (bufferAddress (landing s).cfg buf) len.toNat (landing s) := by
  obtain ⟨live, idle⟩ := free
  rcases request with rfl | rfl
  · exact ⟨.read, by rw [exec, execRead, accept_admitted live idle]⟩
  · exact ⟨.write, by rw [exec, execWrite, accept_admitted live idle]⟩

section
variable {start count buf len : Nat} {e : ErrorKind} {s : State} (dir : Direction) (room : 512 * count ≤ len)
include room

theorem transfer_of_accessError (denied : accessError s = some e) :
    transfer dir start count buf len s = .next (failOp e (beginOp .xCheck s)) := by
  rw [transfer, if_neg room.not_gt, denied]

theorem transfer_of_rangeError (access : accessError s = none) (denied : rangeError dir start count (landing s) = some e) :
    transfer dir start count buf len s = .next (failOp e (beginOp .xCheck (landing s))) := by
  simp only [transfer, if_neg room.not_gt, access, denied]

end

theorem accessError_of_running {s : State} (mounted : s.h.mountState = .mountedUnlocked) (running : s.h.compulsoryStop = false) :
    accessError s = none := by
  simp [accessError, mounted, running]

theorem accessError_of_stopped {s : State} (mounted : s.h.mountState = .mountedUnlocked) (stopped : s.h.compulsoryStop = true) :
    accessError s = some .stopped := by
  simp [accessError, mounted, stopped]

/-- R42, R383: an operation that recorded nothing before answers the error it fails with. -/
theorem failOp_io_of_clean {e : ErrorKind} {s : State} (clean : s.h.stickyError = none) :
    (failOp e s).io = { s.io with result := errorResult e } := by
  rw [failOp_io, clean, Option.getD_none]

/-! ### MOUNT and IS_PRESENT -/

theorem samplePresence_during (s : State) : (samplePresence s).env.during = s.env.during := by
  unfold samplePresence
  split
  · simp only [readCardDetect]
    split <;> rfl
  · rfl

theorem samplePresence_stickyError (s : State) : (samplePresence s).h.stickyError = s.h.stickyError := by
  rw [samplePresence_h]

/-- The state in which MOUNT's second point lies. -/
def mountSampled (s : State) : State := samplePresence (resetCardFields (findCard (beginOp .mReset s)))

theorem mountSampled_cfg (s : State) : (mountSampled s).cfg = s.cfg := samplePresence_cfg _

theorem mountSampled_during (s : State) : (mountSampled s).env.during = s.env.during := samplePresence_during _

theorem mountSampled_stickyError (s : State) : (mountSampled s).h.stickyError = none := samplePresence_stickyError _

theorem mountSampled_clockOn (s : State) : (mountSampled s).h.clockOn = s.h.clockOn := by
  rw [mountSampled, samplePresence_h]
  rfl

theorem mountEntry_of_landed_absent {hostV2 : Bool} {volt : BitVec 9} {s : State}
    (detects : s.cfg.cardDetectSupported = true) (absent : (landing (mountSampled s)).h.cardPresent = false) :
    Machine.mountEntry hostV2 volt s = failOp .noCard (landing (mountSampled s)) :=
  mountEntry_of_absent rfl (cardPresent_supported
    (by rw [(landing_frame _).cfg, mountSampled_cfg]; exact detects) absent)

/-! ### The obligation -/

/-! A removal at the second point of READ, WRITE, MOUNT and IS_PRESENT (R277, R295, R354, R391). -/

section
variable {s : State} {later : List (List Midway)} (free : Free s) (detects : s.cfg.cardDetectSupported = true)
  (known : s.cfg.channel < s.cfg.nChannels)
  (listed : s.env.during = [] :: [.callback .cardRemove s.cfg.channel] :: later)
include free detects known listed

theorem transfer_of_removal {i : Instr} {start count len : Word} {buf : BitVec 64}
    (request : i = .read start count buf len ∨ i = .write start count buf len) (room : 512 * count.toNat ≤ len.toNat)
    (mounted : s.h.mountState = .mountedUnlocked) (running : s.h.compulsoryStop = false) :
    ∃ t, exec i s = .next t ∧ (t.h.cardPresent = false ∧ t.h.compulsoryStop = true ∧ t.h.opActive = false ∧
      t.env.during = later) ∧ t.io.result = 0x22#32 ∧ t.log = s.log := by
  obtain ⟨dir, ran⟩ := exec_transfer_of_free free request
  rw [landing_nothing listed] at ran
  have removal := landing_removal
    (s := { s with env.during := [.callback .cardRemove s.cfg.channel] :: later }) detects known rfl
  refine ⟨_, ran.trans (transfer_of_rangeError dir room (accessError_of_running mounted running)
    (by rw [removal]; exact rangeError_of_absent detects rfl)), ?_⟩
  rw [removal]
  exact ⟨⟨rfl, rfl, rfl, rfl⟩, by rw [failOp_io_of_clean rfl, errorResult_noCard], rfl⟩

theorem mount_of_removal (hostV2 : Bool) (volt : BitVec 9) :
    ∃ t, exec (.mount hostV2 volt) s = .next t ∧ (t.h.cardPresent = false ∧ t.h.compulsoryStop = true ∧
      t.h.opActive = false ∧ t.env.during = later) ∧ t.io.result = 0x22#32 ∧ t.h.clockOn = s.h.clockOn := by
  have ran := exec_mount_of_free free hostV2 volt
  rw [landing_nothing listed] at ran
  generalize start : { s with env.during := [.callback .cardRemove s.cfg.channel] :: later } = u at ran
  have cfg : u.cfg = s.cfg := by rw [← start]
  have removal := landing_removal (s := mountSampled u) (later := later) (by rw [mountSampled_cfg, cfg]; exact detects)
    (by rw [mountSampled_cfg, cfg]; exact known) (by rw [mountSampled_during, mountSampled_cfg, ← start])
  refine ⟨_, ran.trans (congrArg _ (mountEntry_of_landed_absent (by rw [cfg]; exact detects) (by rw [removal]))), ?_⟩
  rw [removal]
  refine ⟨⟨rfl, rfl, rfl, rfl⟩, ?_, ?_⟩
  · rw [failOp_io_of_clean (by exact mountSampled_stickyError u), errorResult_noCard]
  · rw [failOp_h]
    exact (mountSampled_clockOn u).trans (by rw [← start])

theorem isPresent_of_removal : ∃ t, exec .isPresent s = .next t ∧ (t.h.cardPresent = false ∧
    t.h.compulsoryStop = true ∧ t.h.opActive = false ∧ t.env.during = later) ∧ t.io.data0 = 0#32 ∧
    t.io.result = 0#32 := by
  have ran := exec_isPresent_of_free free.1 free.2
  rw [landing_nothing listed] at ran
  generalize start : { s with env.during := [.callback .cardRemove s.cfg.channel] :: later } = u at ran
  have cfg : u.cfg = s.cfg := by rw [← start]
  have removal := landing_removal (s := samplePresence u) (later := later) (by rw [samplePresence_cfg, cfg]; exact detects)
    (by rw [samplePresence_cfg, cfg]; exact known) (by rw [samplePresence_during, samplePresence_cfg, ← start])
  have absent : cardPresent (landing (samplePresence u)) = false :=
    cardPresent_supported (by rw [(landing_frame _).cfg, samplePresence_cfg, cfg]; exact detects) (by rw [removal])
  refine ⟨_, ran, ?_⟩
  rw [isPresentEffect, absent, removal]
  exact ⟨⟨rfl, rfl, rfl, rfl⟩, rfl, rfl⟩

end

/-! A stop at the first or the second point of READ and WRITE, and at MOUNT's second (R277, R293, R295, R355). -/

section
variable {s : State} {a0 a1 a2 a3 a4 : Word} {later : List (List Midway)} (free : Free s)
include free

theorem transfer_of_stop {i : Instr} {start count len : Word} {buf : BitVec 64}
    (request : i = .read start count buf len ∨ i = .write start count buf len) (room : 512 * count.toNat ≤ len.toNat)
    (mounted : s.h.mountState = .mountedUnlocked) (listed : s.env.during = [.stop a0 a1 a2 a3 a4] :: later) :
    ∃ t, exec i s = .next t ∧ t.io = { s.io with
      req := 9#32, arg0 := a0, arg1 := a1, arg2 := a2, arg3 := a3, arg4 := a4, result := 0x23#32 } ∧
      t.h.compulsoryStop = true ∧ t.h.opActive = false ∧ t.env.during = later := by
  obtain ⟨dir, ran⟩ := exec_transfer_of_free free request
  rw [landing_stop listed] at ran
  refine ⟨_, ran.trans (transfer_of_accessError dir room (accessError_of_stopped mounted rfl)), ?_, rfl, rfl, rfl⟩
  rw [failOp_io_of_clean rfl]
  rfl

theorem transfer_of_late_stop {i : Instr} {start count len : Word} {buf : BitVec 64}
    (request : i = .read start count buf len ∨ i = .write start count buf len) (room : 512 * count.toNat ≤ len.toNat)
    (mounted : s.h.mountState = .mountedUnlocked) (running : s.h.compulsoryStop = false)
    (shown : s.cfg.cardDetectSupported = false ∨ s.h.cardPresent = true)
    (outside : s.h.cardSectorSize ≤ start.toNat ∨ s.h.cardSectorSize < start.toNat + count.toNat)
    (listed : s.env.during = [] :: [.stop a0 a1 a2 a3 a4] :: later) :
    ∃ t, exec i s = .next t ∧ t.io = { s.io with
      req := 9#32, arg0 := a0, arg1 := a1, arg2 := a2, arg3 := a3, arg4 := a4, result := 0x01#32 } ∧
      t.h.compulsoryStop = true ∧ t.h.opActive = false ∧ t.env.during = later := by
  obtain ⟨dir, ran⟩ := exec_transfer_of_free free request
  rw [landing_nothing listed] at ran
  have stop := landing_stop (s := { s with env.during := [.stop a0 a1 a2 a3 a4] :: later }) rfl
  refine ⟨_, ran.trans (transfer_of_rangeError dir room (accessError_of_running mounted running)
    (by rw [stop]; exact (rangeError_eq_outOfRange_iff (cardPresent_iff.2 shown)).2 outside)), ?_⟩
  rw [stop]
  refine ⟨?_, rfl, rfl, rfl⟩
  rw [failOp_io_of_clean rfl]
  rfl

theorem mount_of_stop {levels : List Bool} (hostV2 : Bool) (volt : BitVec 9) (detects : s.cfg.cardDetectSupported = true)
    (sample : s.env.cardDetect = false :: levels) (listed : s.env.during = [] :: [.stop a0 a1 a2 a3 a4] :: later) :
    ∃ t, exec (.mount hostV2 volt) s = .next t ∧ t.io = { s.io with
      req := 9#32, arg0 := a0, arg1 := a1, arg2 := a2, arg3 := a3, arg4 := a4, result := 0x22#32 } ∧
      t.h.compulsoryStop = true ∧ t.h.opActive = false ∧ t.env.during = later := by
  have ran := exec_mount_of_free free hostV2 volt
  rw [landing_nothing listed] at ran
  generalize start : { s with env.during := [.stop a0 a1 a2 a3 a4] :: later } = u at ran
  have cfg : u.cfg = s.cfg := by rw [← start]
  have stop := landing_stop (s := mountSampled u) (later := later) (a0 := a0) (a1 := a1) (a2 := a2) (a3 := a3) (a4 := a4)
    (by rw [mountSampled_during, ← start])
  have absent : (mountSampled u).h.cardPresent = false := by
    rw [mountSampled, samplePresence_listed (by rw [← cfg] at detects; exact detects) (by rw [← start] ; exact sample)]
  have io : (mountSampled u).io = s.io := by
    rw [mountSampled, samplePresence_io, ← start]
    rfl
  refine ⟨_, ran.trans (congrArg _ (mountEntry_of_landed_absent (by rw [cfg]; exact detects)
    (by rw [stop]; exact absent))), ?_⟩
  rw [stop]
  refine ⟨?_, rfl, rfl, rfl⟩
  rw [failOp_io_of_clean (by exact mountSampled_stickyError u), errorResult_noCard]
  simp only [raiseStop_io, latch, io]

end

/-- Settles O54: between steps a callback is one update, a wire command commutes with what lands, and inside a request it
lands before the check that can see it. -/
theorem cardDetectCallbacks : Obligations.CardDetectCallbacks := by
  refine ⟨fun s ev channel extra rest legal listed => ?_, fun i s m wire => exec_midway wire m s,
    fun i s acts later request notStop => ?_, fun s later free detects known listed =>
      ⟨fun i start count buf len request room mounted running =>
        transfer_of_removal free detects known listed request room mounted running,
        mount_of_removal free detects known listed, isPresent_of_removal free detects known listed⟩,
    fun s a0 a1 a2 a3 a4 later free => ⟨fun i start count buf len request room mounted running =>
      ⟨transfer_of_stop free request room mounted,
        transfer_of_late_stop free request room mounted running⟩, fun v2 volt levels => mount_of_stop free v2 volt⟩⟩
  · have known := channel_lt_of_configured legal
    rw [step_of_arrival legal (by nofun) listed]
    refine ⟨fun detects own insert => ?_, fun detects own remove => ?_, fun other => ?_⟩
    · subst own insert
      exact congrArg _ (callback_of_insert (s := { s with inputs := rest }) detects known)
    · subst own remove
      exact congrArg _ (callback_of_remove (s := { s with inputs := rest }) detects known)
    · exact congrArg _ (callback_of_other (s := { s with inputs := rest }) other)
  · obtain ⟨k, accepted⟩ | ⟨why, refused⟩ := exec_request_accept request notStop
    · rw [accepted, accepted, accept_landed]
    · rw [refused, refused]

end Sys2Proof.Proofs
end


section
/-! Which steps write the mount state (R37, R273, R407): of the control steps only the mount's locked and last ones, of the
requests only MOUNT and UNMOUNT, of the arrivals only driver init and finalize. -/

namespace Sys2Proof.Proofs

open Sys2Proof Sys2Proof.Machine Sys2Proof.Claims Sys2Proof.Laws

/-- The mount state of a next state is `m`. -/
structure AnswersMount (m : MountState) (r : Result) : Prop where
  kept : ∀ t, r = .next t → t.h.mountState = m

section
variable {m : MountState} {s : State}

theorem AnswersMount.next (same : s.h.mountState = m) : AnswersMount m (.next s) := by
  constructor
  rintro _ ⟨⟩
  exact same

theorem AnswersMount.fault (f : Fault) : AnswersMount m (.fault f) := ⟨fun _ next => by cases next⟩

theorem AnswersMount.refused (why : Refusal) : AnswersMount m (.refused why) := ⟨fun _ next => by cases next⟩

theorem AnswersMount.ite {c : Prop} {_ : Decidable c} {a b : Result} (yes : AnswersMount m a) (no : AnswersMount m b) :
    AnswersMount m (if c then a else b) := by
  split
  · exact yes
  · exact no

theorem withImage_answersMount {w : Nat} {image : CardRegister w} {k : BitVec w → Result}
    (same : ∀ v, AnswersMount m (k v)) : AnswersMount m (withImage image k) :=
  .ite (same _) (.fault _)

theorem withRequest_answersMount {k : TransferRequest → State → Result} (same : ∀ q, AnswersMount m (k q s)) :
    AnswersMount m (withRequest k s) := by
  unfold withRequest
  split
  · exact .fault _
  · exact same _

theorem stageRca_answersMount {p : Phase} {cmd : Indices → BitVec 6} (same : s.h.mountState = m) :
    AnswersMount m (stageRca p cmd s) :=
  withImage_answersMount fun _ => .next same

/-- R407: recovery leaves the mount state alone. -/
theorem recover_answersMount (same : s.h.mountState = m) : AnswersMount m (recover s) := by
  have entered : (recoveryEntry s).h.mountState = m := by rw [(recoveryEntry_frame s).h]; exact same
  rcases recover_cases s with ⟨-, poll⟩ | ⟨-, back⟩
  · rw [poll]
    exact stageRca_answersMount entered
  · rw [back]
    exact .next entered

theorem raise_answersMount {e : ErrorKind} (same : s.h.mountState = m) : AnswersMount m (raise e s) :=
  recover_answersMount same

theorem failBurst_answersMount {q : TransferRequest} {e : ErrorKind} (same : s.h.mountState = m) :
    AnswersMount m (failBurst q e s) :=
  raise_answersMount (by rw [spoilBurst_h]; exact same)

theorem burstDone_mountState (q : TransferRequest) (same : s.h.mountState = m) : (burstDone q s).h.mountState = m := by
  simp only [burstDone, enterPhase, settleBurst_h]
  exact same

/-! ### The control steps of a mount -/

theorem startOcrSd_answersMount (same : s.h.mountState = m) : AnswersMount m (startOcrSd s) :=
  stageRca_answersMount same

theorem idleReached_answersMount (same : s.h.mountState = m) : AnswersMount m (idleReached s) := by
  unfold idleReached
  split
  · exact .ite (.next same) (startOcrSd_answersMount same)
  · exact startOcrSd_answersMount same
  · exact .next same

theorem toScr_answersMount (same : s.h.mountState = m) : AnswersMount m (toScr s) :=
  .ite (.next same) (stageRca_answersMount same)

theorem geometry_answersMount (same : s.h.mountState = m) : AnswersMount m (geometry s) := by
  refine withImage_answersMount fun csd => ?_
  dsimp only
  split
  · exact raise_answersMount same
  · exact stageRca_answersMount (by rw [setWriteProtect_h]; exact same)

theorem toClrStatus_answersMount (same : s.h.mountState = m) : AnswersMount m (toClrStatus s) :=
  .ite (withImage_answersMount fun _ => .next same) (stageRca_answersMount same)

theorem afterReset_answersMount (r : CmdResult) (same : s.h.mountState = m) : AnswersMount m (afterReset r s) := by
  cases r with
  | ok => exact idleReached_answersMount same
  | failed e => exact .ite (raise_answersMount same) (.next same)

theorem afterIfCond_answersMount (r : CmdResult) (same : s.h.mountState = m) : AnswersMount m (afterIfCond r s) := by
  cases r with
  | ok =>
    rw [afterIfCond]
    refine withImage_answersMount fun _ => ?_
    exact .ite (raise_answersMount same) (.ite (raise_answersMount same) (startOcrSd_answersMount same))
  | failed e => exact .next same

theorem afterOcrSd_answersMount (r : CmdResult) (same : s.h.mountState = m) : AnswersMount m (afterOcrSd r s) := by
  cases r with
  | ok =>
    refine .ite (.next same) (withImage_answersMount fun _ => ?_)
    exact .ite (.next same) (.ite (.next same) (stageRca_answersMount same))
  | failed e => exact .next same

theorem afterOcrMmc_answersMount (r : CmdResult) (same : s.h.mountState = m) : AnswersMount m (afterOcrMmc r s) := by
  cases r with
  | ok =>
    rw [afterOcrMmc]
    refine withImage_answersMount fun _ => ?_
    exact .ite (.next same) (.ite (raise_answersMount same) (.next same))
  | failed e => exact raise_answersMount same

theorem afterCid_answersMount (r : CmdResult) (same : s.h.mountState = m) : AnswersMount m (afterCid r s) := by
  cases r with
  | ok => exact .ite (.next same) (.next same)
  | failed e => exact raise_answersMount same

theorem afterRca_answersMount (r : CmdResult) (same : s.h.mountState = m) : AnswersMount m (afterRca r s) := by
  cases r with
  | ok =>
    rw [afterRca]
    refine withImage_answersMount fun _ => ?_
    exact .ite (.next same) (.ite (raise_answersMount same) (.next same))
  | failed e => exact raise_answersMount same

theorem afterCsd_answersMount (r : CmdResult) (same : s.h.mountState = m) : AnswersMount m (afterCsd r s) := by
  cases r with
  | ok =>
    rw [afterCsd]
    refine withImage_answersMount fun _ => ?_
    exact .ite (.next same) (toScr_answersMount same)
  | failed e => exact raise_answersMount same

theorem afterDsr_answersMount (r : CmdResult) (same : s.h.mountState = m) : AnswersMount m (afterDsr r s) := by
  cases r with
  | ok => exact toScr_answersMount same
  | failed e => exact raise_answersMount same

theorem afterScr_answersMount (r : CmdResult) (same : s.h.mountState = m) : AnswersMount m (afterScr r s) := by
  cases r with
  | ok => exact .ite (.next same) (withImage_answersMount fun _ => .next same)
  | failed e => exact raise_answersMount same

theorem afterBlockLen_answersMount (r : CmdResult) (same : s.h.mountState = m) : AnswersMount m (afterBlockLen r s) := by
  have onward := toClrStatus_answersMount same
  cases r with
  | ok => exact .ite (withImage_answersMount fun _ => .ite (stageRca_answersMount same) onward) onward
  | failed e => exact raise_answersMount same

theorem afterBusWidth_answersMount (r : CmdResult) (same : s.h.mountState = m) : AnswersMount m (afterBusWidth r s) := by
  cases r with
  | ok => exact .ite (.next same) (toClrStatus_answersMount same)
  | failed e => exact raise_answersMount same

theorem afterClrStatus_answersMount (r : CmdResult) (same : s.h.mountState = m) :
    AnswersMount m (afterClrStatus r s) := by
  cases r with
  | ok => exact .ite (.next same) (stageRca_answersMount same)
  | failed e => exact raise_answersMount same

theorem afterSdStatus_answersMount (r : CmdResult) (same : s.h.mountState = m) : AnswersMount m (afterSdStatus r s) := by
  cases r with
  | ok => exact .ite (.next same) (withImage_answersMount fun _ => withImage_answersMount fun _ => .next same)
  | failed e => exact raise_answersMount same

/-- R254, R273: after CMD7 the mount state is kept, or the card is locked. -/
theorem afterSelect_mountState {r : CmdResult} {t : State} (next : afterSelect r s = .next t) :
    t.h.mountState = s.h.mountState ∨ t.h.mountState = .mountedLocked := by
  cases r with
  | failed e => exact .inl ((raise_answersMount rfl).kept t next)
  | ok =>
    by_cases locked : s.h.lastR1.getLsbD s.cfg.pos.r1.cardLocked = true
    · rw [afterSelect_of_locked locked] at next
      cases next
      exact .inr rfl
    · rw [afterSelect_of_unlocked (Bool.eq_false_iff.2 locked)] at next
      cases next
      exact .inl (by simp)

/-! ### The control steps of a transfer -/

theorem burstBoundary_answersMount (same : s.h.mountState = m) : AnswersMount m (burstBoundary s) := by
  refine withRequest_answersMount fun q => .ite (.next same) (.ite (.next same) ?_)
  dsimp only
  split
  · exact .next same
  · exact .next same

theorem afterSingle_answersMount (r : CmdResult) (same : s.h.mountState = m) : AnswersMount m (afterSingle r s) := by
  cases r with
  | ok => exact withRequest_answersMount fun _ => stageRca_answersMount same
  | failed e => exact withRequest_answersMount fun _ => failBurst_answersMount same

theorem afterMulti_answersMount (r : CmdResult) (same : s.h.mountState = m) : AnswersMount m (afterMulti r s) := by
  cases r with
  | ok => exact withRequest_answersMount fun _ => .ite (stageRca_answersMount same) (.next same)
  | failed e => exact withRequest_answersMount fun _ => failBurst_answersMount same

theorem afterStop_answersMount (r : CmdResult) (same : s.h.mountState = m) : AnswersMount m (afterStop r s) := by
  refine .ite (recover_answersMount same) (withRequest_answersMount fun q => ?_)
  split
  · exact failBurst_answersMount same
  · split
    · exact failBurst_answersMount same
    · exact stageRca_answersMount same

theorem afterVerified_answersMount (q : TransferRequest) (same : s.h.mountState = m) :
    AnswersMount m (afterVerified q s) := by
  have done := burstDone_mountState q same
  unfold afterVerified
  split
  · exact .ite (.next same) (.next done)
  · exact .ite (stageRca_answersMount same) (.next done)

theorem afterVerify_answersMount (r : CmdResult) (same : s.h.mountState = m) : AnswersMount m (afterVerify r s) := by
  refine withRequest_answersMount fun q => ?_
  split
  · exact failBurst_answersMount same
  · split
    · exact failBurst_answersMount same
    · exact .ite (afterVerified_answersMount q same) (failBurst_answersMount same)

theorem afterWrCount_answersMount (r : CmdResult) (same : s.h.mountState = m) : AnswersMount m (afterWrCount r s) := by
  cases r with
  | ok =>
    refine withRequest_answersMount fun q => ?_
    exact .ite (.next same) (.ite (failBurst_answersMount same) (.next (burstDone_mountState q same)))
  | failed e => exact withRequest_answersMount fun _ => failBurst_answersMount same

theorem afterRecoveryCommand_answersMount (r : CmdResult) (same : s.h.mountState = m) :
    AnswersMount m (afterRecoveryCommand r s) :=
  .ite (.next same) (.ite (.next same) (.next same))

/-! ### Every control step -/

theorem advanceAfter_answersMount (r : CmdResult) (other : s.h.phase ≠ .mSelect) (same : s.h.mountState = m) :
    AnswersMount m (advanceAfter r s) := by
  unfold advanceAfter
  split
  case h_10 select => exact absurd select other
  · exact afterReset_answersMount r same
  · exact afterIfCond_answersMount r same
  · exact afterOcrSd_answersMount r same
  · exact afterOcrMmc_answersMount r same
  · exact afterCid_answersMount r same
  · exact afterRca_answersMount r same
  · exact afterCsd_answersMount r same
  · exact afterDsr_answersMount r same
  · exact afterScr_answersMount r same
  · exact afterBlockLen_answersMount r same
  · exact afterBusWidth_answersMount r same
  · exact afterClrStatus_answersMount r same
  · exact afterSdStatus_answersMount r same
  · exact afterSingle_answersMount r same
  · exact afterMulti_answersMount r same
  · exact afterStop_answersMount r same
  · exact afterVerify_answersMount r same
  · exact afterWrCount_answersMount r same
  · exact afterRecoveryCommand_answersMount r same
  all_goals exact .fault _

theorem advanceAlone_answersMount (other : s.h.phase ≠ .mDone) (same : s.h.mountState = m) :
    AnswersMount m (advanceAlone s) := by
  unfold advanceAlone
  split
  case h_2 done => exact absurd done other
  · exact geometry_answersMount same
  · exact burstBoundary_answersMount same
  · exact .next same
  all_goals exact .fault _

/-- R37, R407: the engine's own step keeps the mount state, but for the mount's locked and last steps. -/
theorem advance_mountState {t : State} (next : advance s = .next t) : t.h.mountState = s.h.mountState ∨
    (s.h.phase = .mSelect ∧ t.h.mountState = .mountedLocked) ∨
    (s.h.phase = .mDone ∧ t.h.mountState = .mountedUnlocked) := by
  unfold advance at next
  split at next
  next r _ =>
    by_cases select : s.h.phase = .mSelect
    · rw [advanceAfter, select] at next
      exact (afterSelect_mountState next).imp_right fun locked => .inl ⟨select, locked⟩
    · exact .inl ((advanceAfter_answersMount r select rfl).kept t next)
  next =>
    by_cases done : s.h.phase = .mDone
    · rw [advanceAlone, done] at next
      cases next
      exact .inr (.inr ⟨done, rfl⟩)
    · exact .inl ((advanceAlone_answersMount done rfl).kept t next)

/-! ### Requests -/

theorem landing_mountState (same : s.h.mountState = m) : (landing s).h.mountState = m := by
  rw [(landing_frame s).h]
  exact same

theorem samplePresence_mountState (same : s.h.mountState = m) : (samplePresence s).h.mountState = m := by
  rw [samplePresence_h]
  exact same

theorem accept_answersMount {k : State → Result} (keeps : ∀ t, AnswersMount t.h.mountState (k t)) :
    AnswersMount s.h.mountState (accept k s) :=
  .ite (.refused _) (.ite (.refused _) (landing_mountState (s := s) rfl ▸ keeps (landing s)))

theorem transfer_answersMount (dir : Direction) (start count buf len : Nat) (s : State) :
    AnswersMount s.h.mountState (transfer dir start count buf len s) := by
  have landed := landing_mountState (s := s) rfl
  unfold transfer
  refine .ite (.refused _) ?_
  split
  · exact .next rfl
  · dsimp only
    split
    · exact .next landed
    · exact .ite (.next landed) (.ite (.refused _) (.next (by simp [startTransfer, enterPhase, landed])))

theorem isPresentEffect_mountState (s : State) : (isPresentEffect s).h.mountState = s.h.mountState :=
  landing_mountState (samplePresence_mountState rfl)

theorem exec_wire_mountState {i : Instr} {t : State} (wire : isWire i = true) (next : exec i s = .next t) :
    t.h.mountState = s.h.mountState := by
  obtain ⟨a, r, rfl, frame⟩ := exec_wire_frame wire next
  exact congrArg (·.mountState) frame.h

theorem exec_answersMount {i : Instr} (noMount : ∀ hostV2 volt, i ≠ .mount hostV2 volt) (noUnmount : i ≠ .unmount) :
    AnswersMount s.h.mountState (exec i s) := by
  cases i with
  | mount => exact absurd rfl (noMount _ _)
  | unmount => exact absurd rfl noUnmount
  | read | write =>
    dsimp only [exec, execRead, execWrite]
    exact accept_answersMount fun t => transfer_answersMount _ _ _ _ _ t
  | getGeometry | getMediaKind | getWp =>
    dsimp only [exec, execGetGeometry, execGetMediaKind, execGetWp]
    refine accept_answersMount fun _ => ?_
    exact .next rfl
  | isPresent =>
    dsimp only [exec, execIsPresent]
    exact accept_answersMount fun t => .next (isPresentEffect_mountState t)
  | requestStop => exact .ite (.refused _) (.ite (.next rfl) (.next rfl))
  | lockUnlock | standby | active | reservedRequest => exact .refused _
  | _ => exact ⟨fun _ next => exec_wire_mountState rfl next⟩

end

/-- Settles O52: each kind of step keeps the mount state or is one of the writers. -/
theorem mountStateWriters : Obligations.MountStateWriters := by
  intro s t next changed
  have fetch := fetched_h s
  have kept : t.h.mountState = (fetched s).h.mountState → False := fun same => changed (by rw [same, fetch])
  obtain ⟨-, request | frame | arrival | control | idle⟩ := step_cases next
  · obtain ⟨w, rest, listed, ran⟩ := request
    refine .inl ⟨w, by rw [requested, listed], ?_⟩
    by_contra! other
    obtain ⟨noMount, noUnmount⟩ := other
    exact kept ((exec_answersMount (fun v2 volt read => noMount v2 volt (congrArg Except.ok read))
      (fun read => noUnmount (congrArg Except.ok read))).kept t ran)
  · obtain ⟨f, i, -, read, ran⟩ := frame
    exact (kept (exec_wire_mountState (isWire_of_decode_wire read) ran)).elim
  · obtain ⟨i, rest, listed, -, arrived⟩ := arrival
    by_cases init : i = .driverInit
    · exact .inr (.inl ⟨rest, .inl (init ▸ listed)⟩)
    by_cases final : i = .finalize
    · exact .inr (.inl ⟨rest, .inr (final ▸ listed)⟩)
    obtain ⟨u, arrives, outside⟩ := arrive_outside init final (fetched s)
    rw [arrives] at arrived
    cases arrived
    exact (kept (by rw [outside.h])).elim
  · obtain ⟨-, -, moved⟩ := control
    have written := advance_mountState moved
    rw [fetch] at written
    exact .inr (.inr (written.resolve_left changed))
  · obtain ⟨-, -, rfl⟩ := idle
    exact (kept rfl).elim

end Sys2Proof.Proofs
end


section
/-! One command at a time (R163), and the hidden state in which each Port call of a wire command is made (R54, R55, R160,
R168, R455). -/

namespace Sys2Proof.Proofs

open Sys2Proof Sys2Proof.Machine Sys2Proof.Claims Sys2Proof.Laws

/-! ### Orderly stretches of calls -/

/-- Between commands and outside every wait: the mask is empty and nothing is in flight (R54, R163). -/
structure AtRest (s : State) : Prop where
  mask : s.h.irqMask = []
  flight : s.h.inFlight = false

/-- From `s` to `t` only well-made calls were recorded, and `t` is at rest. -/
structure Orderly (s t : State) : Prop where
  rest : AtRest t
  made : ∃ made, t.log = made ++ s.log ∧ ∀ e ∈ made, WellMade e

theorem Orderly.refl {s : State} (rest : AtRest s) : Orderly s s := ⟨rest, [], rfl, nofun⟩

theorem Orderly.trans {s t u : State} (a : Orderly s t) (b : Orderly t u) : Orderly s u := by
  obtain ⟨first, grown, well⟩ := a.made
  obtain ⟨later, grown', well'⟩ := b.made
  refine ⟨b.rest, later ++ first, by rw [grown', grown, List.append_assoc], fun e made => ?_⟩
  exact (List.mem_append.1 made).elim (well' e) (well e)

/-- What changes neither the log nor the hidden state goes unseen. -/
theorem Orderly.of_eq {s t u : State} (orderly : Orderly s t) (log : u.log = t.log) (mask : u.h.irqMask = t.h.irqMask)
    (flight : u.h.inFlight = t.h.inFlight) : Orderly s u :=
  ⟨⟨mask.trans orderly.rest.mask, flight.trans orderly.rest.flight⟩, by rw [log]; exact orderly.made⟩

/-- A call that has no rule of its own for the hidden state. -/
def PortCall.plain : PortCall → Bool
  | .command _ _ | .wait _ _ | .dmaInit _ _ | .dmaWaitEnd => false
  | _ => true

theorem wellMade_of_plain {s : State} {c : PortCall} (rest : AtRest s) (plain : PortCall.plain c = true) :
    WellMade (portEvent s.h c) := by
  rw [portEvent_eq, rest.mask, rest.flight]
  constructor
  case command => rintro _ _ rfl; cases plain
  case flying => nofun
  case wait => rintro _ _ rfl; cases plain
  case masked => exact fun some => absurd rfl some
  case dmaInit => rintro _ _ rfl; cases plain
  case dmaWait => rintro rfl; cases plain

/-- One well-made call from a state at rest. -/
theorem Orderly.of_call {s t : State} {c : PortCall} (rest : AtRest s) (well : WellMade (portEvent s.h c))
    (log : t.log = portEvent s.h c :: s.log) (mask : t.h.irqMask = s.h.irqMask) (flight : t.h.inFlight = s.h.inFlight) :
    Orderly s t :=
  ⟨⟨mask.trans rest.mask, flight.trans rest.flight⟩, [_], log, fun e made => by
    rw [List.mem_singleton.1 made]; exact well⟩

theorem andThen_orderly {s : State} {r : Option ErrorKind × State} {k : State → Option ErrorKind × State}
    (first : Orderly s r.2) (next : r.1 = none → Orderly r.2 (k r.2).2) : Orderly s (andThen r k).2 := by
  obtain ⟨_ | e, t⟩ := r
  · exact first.trans (next rfl)
  · exact first

section
variable {s : State} (rest : AtRest s)
include rest

/-! ### `issue` -/

theorem readSts2_orderly : Orderly s (readSts2 s).2 :=
  .of_call rest (wellMade_of_plain rest rfl) (readSts2_log s) (by simp) (by simp)

theorem readRsp_orderly : Orderly s (readRsp s).2 :=
  .of_call rest (wellMade_of_plain rest rfl) (readRsp_log s) (by simp) (by simp)

theorem readImage_orderly : Orderly s (readImage s).2 :=
  (readRsp_orderly rest).trans (readRsp_orderly (readRsp_orderly rest).rest)

theorem busyWait_orderly (n : Nat) : Orderly s (busyWait n s).2 := by
  induction n generalizing s with
  | zero => exact .refl rest
  | succ n ih =>
    have read := readSts2_orderly rest
    unfold busyWait
    dsimp only
    split
    · exact read
    · exact read.trans (ih read.rest)

end

/-! ### The calls around a wait -/

section
variable (base : Nat) (flight : Bool) (classes : List EventClass) (dma : DmaState)

theorem wellMade_lock {c : PortCall} (lock : c = .lockCpu ∨ c = .unlockCpu) :
    WellMade ⟨base, c, flight, classes, dma⟩ := by
  rcases lock with rfl | rfl <;> constructor <;> simp

theorem wellMade_mask (unmasks : flight = true → classes = []) :
    WellMade ⟨base, .mask classes, flight, classes, dma⟩ := by
  constructor <;> simp_all

theorem wellMade_wait (window : Nat) (response : flight = true → classes = [.respEnd, .cmdError]) :
    WellMade ⟨base, .wait classes window, flight, classes, dma⟩ := by
  constructor <;> simp_all

theorem wellMade_command (kind : RespKind) (index : BitVec 6) :
    WellMade ⟨base, .command kind index, false, classes, dma⟩ := by
  constructor <;> simp

end

/-- R160: the calls of `issue` after the busy wait, whatever the Port answers. -/
theorem sendCommand_log (s : State) (cmd : Indices → BitVec 6) (arg : Word) (kind : RespKind) (tc : TimeoutClass) :
    (sendCommand cmd arg kind tc s).2.log = issueCalls s cmd arg kind tc 0 ++ s.log := by
  simp [sendCommand, portWait, readStatus, issueCalls, calls]

/-- R168: the calls of a wait, bracketed by the enable and the disable of its classes. -/
theorem maskedWait_log (classes : List EventClass) (tc : TimeoutClass) (s : State) :
    (maskedWait classes tc s).2.log = calls { s with h.irqMask := [] } [.unlockCpu, .mask []] ++
      calls { s with h.irqMask := classes } [.lockCpu, .wait classes (window s.cfg tc), .unlockCpu, .mask classes] ++
      calls s [.lockCpu] ++ s.log := by
  simp [maskedWait, portWait, calls]

theorem dataWait_dmaState (classes : List EventClass) (tc : TimeoutClass) (s : State) :
    (dataWait classes tc s).2.h.dmaState = s.h.dmaState := by
  simp [dataWait]

section
variable {s : State} (rest : AtRest s)
include rest

/-- R160, R163, R168: nothing is in flight but during the response wait and its unmasking, and each mask is the wait's. -/
theorem wellMade_issueCalls (cmd : Indices → BitVec 6) (arg : Word) (kind : RespKind) (tc : TimeoutClass) :
    ∀ e ∈ issueCalls s cmd arg kind tc 0, WellMade e := by
  have unmasked : AtRest { s with h.irqMask := [], h.inFlight := false } := ⟨rfl, rfl⟩
  simp only [issueCalls, calls, List.map_cons, List.map_nil, List.replicate_zero, List.append_nil, List.cons_append,
    List.nil_append, List.forall_mem_cons, rest.flight]
  exact ⟨wellMade_of_plain unmasked rfl, wellMade_lock _ _ _ _ (.inr rfl), wellMade_mask _ _ _ _ fun _ => rfl,
    wellMade_lock _ _ _ _ (.inl rfl), wellMade_wait _ _ _ _ _ fun _ => rfl, wellMade_command ..,
    wellMade_lock _ _ _ _ (.inr rfl), wellMade_mask _ _ _ _ nofun, wellMade_lock _ _ _ _ (.inl rfl), rest.flight ▸ wellMade_of_plain rest rfl,
    rest.flight ▸ wellMade_of_plain rest rfl, rest.flight ▸ wellMade_of_plain rest rfl, nofun⟩

theorem sendCommand_orderly (cmd : Indices → BitVec 6) (arg : Word) (kind : RespKind) (tc : TimeoutClass) :
    Orderly s (sendCommand cmd arg kind tc s).2 :=
  ⟨⟨by simp [sendCommand, portWait, readStatus], by simp [sendCommand, portWait, readStatus]⟩, _,
    sendCommand_log s cmd arg kind tc, wellMade_issueCalls rest cmd arg kind tc⟩

theorem maskedWait_orderly (classes : List EventClass) (tc : TimeoutClass) : Orderly s (maskedWait classes tc s).2 := by
  refine ⟨⟨by simp, by simp [rest.flight]⟩, _, maskedWait_log classes tc s, ?_⟩
  simp only [calls, List.map_cons, List.map_nil, List.cons_append, List.nil_append, List.forall_mem_cons, rest.flight]
  exact ⟨wellMade_lock _ _ _ _ (.inr rfl), wellMade_mask _ _ _ _ nofun, wellMade_lock _ _ _ _ (.inl rfl),
    wellMade_wait _ _ _ _ _ nofun, wellMade_lock _ _ _ _ (.inr rfl), wellMade_mask _ _ _ _ nofun,
    wellMade_lock _ _ _ _ (.inl rfl), nofun⟩

theorem issue_orderly (cmd : Indices → BitVec 6) (arg : Word) (kind : RespKind) (tc : TimeoutClass) :
    Orderly s (issue cmd arg kind tc s).2 := by
  have waited := busyWait_orderly rest s.cfg.busySpinLimit
  unfold issue
  dsimp only
  split
  · exact waited.trans (sendCommand_orderly waited.rest cmd arg kind tc)
  · exact waited

theorem readStatus_orderly (arrived : Bool) : Orderly s (readStatus arrived s).2 :=
  (readSts2_orderly rest).of_eq rfl rfl rfl

theorem dataWait_orderly (classes : List EventClass) (tc : TimeoutClass) : Orderly s (dataWait classes tc s).2 :=
  have waited := maskedWait_orderly rest classes tc
  waited.trans (readStatus_orderly waited.rest _)

/-! ### What follows `issue` -/

theorem takeR1_orderly : Orderly s (takeR1 s) := (readRsp_orderly rest).of_eq rfl rfl rfl

theorem respR1_orderly (excl : Word) : Orderly s (respR1 excl s).2 := takeR1_orderly rest

theorem dataPort_orderly (dir : Direction) : Orderly s (logCall (.dataPort dir) s) :=
  .of_call rest (wellMade_of_plain rest rfl) rfl rfl rfl

theorem drawBytes_orderly (n : Nat) : Orderly s (drawBytes n s).2 := by
  rw [drawBytes_env]
  exact (Orderly.refl rest).of_eq rfl rfl rfl

theorem readRegData_orderly {n : Nat} {store : List Byte → State → State}
    (unseen : ∀ bytes t, (store bytes t).log = t.log ∧ (store bytes t).h.irqMask = t.h.irqMask ∧
      (store bytes t).h.inFlight = t.h.inFlight) : Orderly s (readRegData n store s).2 := by
  refine andThen_orderly (dataWait_orderly rest _ _) fun _ => ?_
  have ready := dataWait_orderly rest [.bufReady, .dataError] .data
  have port := dataPort_orderly ready.rest .read
  have drawn := port.trans (drawBytes_orderly port.rest n)
  obtain ⟨log, mask, flight⟩ := unseen _ _
  have stored := drawn.of_eq log mask flight
  exact stored.trans (dataWait_orderly stored.rest _ _)

theorem followUp_orderly (i : Instr) : Orderly s (followUp i s).2 := by
  have checked := fun excl => respR1_orderly rest excl
  cases i with
  | cmd1 | acmd41 | cmd3Sd | cmd8 => exact (readRsp_orderly rest).of_eq rfl rfl rfl
  | cmd2 | cmd9 => exact (readImage_orderly rest).of_eq rfl rfl rfl
  | cmd3Mmc => exact andThen_orderly (checked _) fun _ => (Orderly.refl (checked _).rest).of_eq rfl rfl rfl
  | cmd7 | cmd16 | cmd55 | acmd42 => exact checked _
  | cmd12 | cmd13 => exact takeR1_orderly rest
  | acmd6 =>
    exact andThen_orderly (checked _) fun _ =>
      .of_call (checked _).rest (wellMade_of_plain (checked _).rest rfl) (selectBus_log ..) rfl rfl
  | acmd13 | acmd22 | acmd51 =>
    exact andThen_orderly (checked _) fun _ => readRegData_orderly (checked _).rest fun _ _ => ⟨rfl, rfl, rfl⟩
  | _ => exact (Orderly.refl rest).of_eq rfl rfl rfl

/-! ### Data phases -/

theorem moveSector_orderly (dir : Direction) (sector buf : Nat) : Orderly s (moveSector dir sector buf s) := by
  have still := Orderly.refl rest
  cases dir with
  | read =>
    have bytes : Orderly s (cardSector sector s).2 := by
      unfold cardSector
      split
      · exact still
      · exact drawBytes_orderly rest 512
    exact bytes.of_eq rfl rfl rfl
  | write =>
    unfold moveSector
    dsimp only
    split
    · exact still.of_eq rfl rfl rfl
    · exact still

theorem softwareSectors_orderly (dir : Direction) (sector buf n : Nat) :
    Orderly s (softwareSectors dir sector buf n s).2 := by
  induction n generalizing sector buf s with
  | zero => exact .refl rest
  | succ n ih =>
    have ready := dataWait_orderly rest [sectorEvent dir, .dataError] .data
    refine andThen_orderly ready fun _ => ?_
    have port := dataPort_orderly ready.rest dir
    have moved := (port.trans (moveSector_orderly port.rest dir sector buf)).of_eq (countCopy_log _) rfl rfl
    exact moved.trans (ih moved.rest _ _)

theorem dmaSectors_orderly (dir : Direction) (sector buf n : Nat) : Orderly s (dmaSectors dir sector buf n s) := by
  induction n generalizing sector buf s with
  | zero => exact .refl rest
  | succ n ih =>
    have moved := moveSector_orderly rest dir sector buf
    exact moved.trans (ih moved.rest _ _)

theorem wellMade_dmaInit (buf : Nat) (dir : Direction) (ready : s.h.dmaState = .idle ∨ s.h.dmaState = .done) :
    WellMade (portEvent s.h (.dmaInit buf dir)) := by
  rw [portEvent_eq, rest.mask, rest.flight]
  constructor <;> simp [ready]

theorem wellMade_dmaWaitEnd (armed : s.h.dmaState = .armed) : WellMade (portEvent s.h .dmaWaitEnd) := by
  rw [portEvent_eq, rest.mask, rest.flight]
  constructor <;> simp [armed]

theorem drainDma_orderly (dir : Direction) (sector buf n : Nat) (armed : s.h.dmaState = .armed) :
    Orderly s (drainDma dir sector buf n s).2 := by
  have called : Orderly s (logCall .dmaWaitEnd s) := .of_call rest (wellMade_dmaWaitEnd rest armed) rfl rfl rfl
  have waited := called.of_eq (eventArrives_log [.dmaEnd] _) (by simp) (by simp)
  unfold drainDma
  dsimp only
  split
  · exact (waited.trans (dmaSectors_orderly waited.rest dir sector buf n)).of_eq (setDma_log _ _) rfl rfl
  · exact waited.of_eq (setDma_log _ _) rfl rfl

/-- R308, R55: the engine is armed between its set-up and `wait_dma_end`. -/
theorem dmaPhase_orderly (dir : Direction) (sector buf n : Nat) (ready : s.h.dmaState = .idle ∨ s.h.dmaState = .done) :
    Orderly s (dmaPhase dir sector buf n s).2 := by
  have setUp : Orderly s (logCall (.dmaInit buf dir) s) := .of_call rest (wellMade_dmaInit rest buf dir ready) rfl rfl rfl
  have armed := setUp.of_eq (setDma_log .armed _) rfl rfl
  have ended := armed.trans (dataWait_orderly armed.rest [.accessEnd, .dataError] .seq)
  unfold dmaPhase endSeq
  dsimp only
  split
  · exact ended.of_eq (setDma_log _ _) rfl rfl
  · exact ended.trans (drainDma_orderly ended.rest dir sector buf n (by rw [dataWait_dmaState]; rfl))

theorem dataPhase_orderly (dir : Direction) (sector buf n : Nat) (ready : dmaBlocked s = false) :
    Orderly s (dataPhase dir sector buf n s).2 := by
  unfold dataPhase
  split
  next =>
    have moved := softwareSectors_orderly rest dir sector buf n
    refine andThen_orderly moved fun _ => ?_
    have forgotten := (Orderly.refl moved.rest).of_eq (forgetCopies_log _) rfl rfl
    exact forgotten.trans (dataWait_orderly forgotten.rest _ _)
  next mode =>
    refine dmaPhase_orderly rest dir sector buf n ?_
    cases state : s.h.dmaState <;> simp_all [dmaBlocked]

end

/-! ### Every wire command -/

theorem dmaBlocked_of_frame {s t : State} (frame : PortFrame s t) : dmaBlocked t = dmaBlocked s := by
  rw [dmaBlocked, frame.h, dmaBlocked]

theorem exec_wire_orderly {i : Instr} {s t : State} (wire : isWire i = true) (rest : AtRest s) (next : exec i s = .next t) :
    Orderly s t := by
  cases data : isData i s with
  | none =>
    obtain ⟨cmd, arg, kind, tc, issues⟩ := wireIssue_of_isWire wire
    rw [exec_of_issue issues data] at next
    obtain ⟨-, rfl⟩ := command_next next
    have issued := issue_orderly rest cmd arg kind tc
    exact (andThen_orderly issued fun _ => followUp_orderly issued.rest i).of_eq rfl rfl rfl
  | some d =>
    obtain ⟨dir, n, arg⟩ := d
    obtain ⟨cmd, -, ran⟩ := exec_of_isData data
    obtain ⟨-, ready, rfl⟩ := dataCommand_next (ran ▸ next)
    have forgotten : Orderly s (forgetCopies s) := (Orderly.refl rest).of_eq rfl rfl rfl
    have issued := issue_orderly forgotten.rest cmd arg .r1 .cmd
    have checked := andThen_orderly issued fun _ => respR1_orderly issued.rest 0#32
    have frame := issueR1_frame cmd arg .r1 .cmd 0#32 (forgetCopies s)
    refine (forgotten.trans (andThen_orderly checked fun ok => ?_)).of_eq rfl rfl rfl
    refine dataPhase_orderly checked.rest _ _ _ _ ((dmaBlocked_of_frame frame).trans ?_)
    exact ready.resolve_right (by simp [show (issueR1 cmd arg .r1 .cmd 0#32 (forgetCopies s)).1 = none from ok])

theorem exec_wire_flying {i : Instr} {s : State} (wire : isWire i = true) (flying : s.h.inFlight = true) :
    exec i s = .fault .commandInFlight := by
  cases data : isData i s with
  | none =>
    obtain ⟨cmd, arg, kind, tc, issues⟩ := wireIssue_of_isWire wire
    rw [exec_of_issue issues data, command, if_pos flying]
  | some d =>
    obtain ⟨cmd, -, ran⟩ := exec_of_isData data
    rw [ran, dataCommand, if_pos flying]

theorem flight_of_exec_next {i : Instr} {s t : State} (wire : isWire i = true) (next : exec i s = .next t) :
    s.h.inFlight = false := by
  by_contra flying
  rw [exec_wire_flying wire (by simpa using flying)] at next
  cases next

/-- Settles O11: a command in flight stops every other, and the calls of one that answers are orderly. -/
theorem oneCommandInFlight : Obligations.OneCommandInFlight :=
  ⟨fun _ _ wire flying => exec_wire_flying wire flying,
    fun s cmd arg kind tc idle => (issue_frame cmd arg kind tc s).inFlight idle,
    fun _ _ _ wire mask next => (exec_wire_orderly wire ⟨mask, flight_of_exec_next wire next⟩ next).made⟩

end Sys2Proof.Proofs
end
